-- ==== Sys2Proof/Word.lean ====
section
/-! DEFINITION. The word types of the block, each as wide as spec/00_scope.md R7 and spec/10_state.md R20 say. -/

namespace Sys2Proof

/-- An input token: "single-byte tokens" (R7, R70). -/
abbrev Byte := BitVec 8

/-- A channel index: 3 bits, since `N_CH ≤ 8` (R7). -/
abbrev ChIdx := BitVec 3

/-- A position, a target or the accumulator: 10 bits, unsigned (R7). -/
abbrev Level := BitVec 10

/-- The digit index `rd`: 2 bits, unsigned (R7, R24). -/
abbrev DigitIndex := BitVec 2

/-- The two output lines of a channel as one register `{up, dn}` (R28, R151). -/
abbrev Lines := BitVec 2

end Sys2Proof
end

