-- ==== Sys2Proof/Config.lean ====
section
/-! DEFINITION. The build parameters (R6) and the fixed constants (R7). -/

namespace Sys2Proof

/-- The two legal values of `N_CH` (R6); the type admits no third. -/
inductive ChannelCount where
  | seven
  | eight
deriving DecidableEq, Repr

/-- The value of `N_CH` as a number. -/
def ChannelCount.toNat : ChannelCount → Nat
  | .seven => 7
  | .eight => 8

/-- What is fixed when a block is built (R6, R37): both parameters are open in the spec (D5, D7), so the model carries
them as data and a statement about every state is a statement about every value of them. -/
structure Config where
  /-- `N_CH`. -/
  n_ch : ChannelCount
  /-- `ZERO_IS_DIGIT`: whether byte `'0'` is a digit token of value 0. -/
  zero_is_digit : Bool
deriving DecidableEq, Repr

/-- `N_CH` as a number, 7 or 8. -/
def Config.nCh (cfg : Config) : Nat := cfg.n_ch.toNat

/-- The parameter values of spec/95_test_vectors.md ("the parameters are `N_CH = 8` and `ZERO_IS_DIGIT = false`");
`false` is R6's reference value of `ZERO_IS_DIGIT`. DESIGN CHOICE for `N_CH`, see notes/assumptions/2.md. -/
def Config.reference : Config := { n_ch := .eight, zero_is_digit := false }

/-- The parameter values under which every row of spec/opcode_table.json is a token of its own (the rows' conditions,
R81). Used only to read a word of the table (`decodeTableWord`). -/
def Config.table : Config := { n_ch := .eight, zero_is_digit := true }

/-- `POS_MAX`: the largest position and target (R7). -/
abbrev posMax : Nat := 999

/-- `NDIG`: digit tokens per command (R7). -/
abbrev nDig : Nat := 3

/-- `RD_INIT`: the digit index after a select; an index and not a count, so one less than `NDIG` (R7, R24). -/
abbrev rdInit : DigitIndex := BitVec.ofNat 2 (nDig - 1)

/-- The reset value of every target: the source's "unset" sentinel (R26). -/
abbrev targetReset : Level := 999

end Sys2Proof
end

