-- ==== Sys2Proof/Syntax.lean ====
section
/-! DEFINITION. The token set (R2): one constructor for each row of spec/opcode_table.json. -/

namespace Sys2Proof

/-- A token. The letter or digit is part of the row, so a row but the last has no operand.
`ignore` is the catch-all row; its operand is the byte itself (mask 0x00: all eight bits are free), see
notes/assumptions/8.md. -/
inductive Instr where
  | queryA | queryB | queryC | queryD | queryE | queryF | queryG | queryH
  | selectA | selectB | selectC | selectD | selectE | selectF | selectG | selectH
  | digit0 | digit1 | digit2 | digit3 | digit4 | digit5 | digit6 | digit7 | digit8 | digit9
  | ignore (b : Byte)
deriving DecidableEq, Repr

/-- The four token classes with their fields (R70, R72 to R74). -/
inductive Token where
  /-- QRY: report channel `c`'s position. -/
  | qry (c : ChIdx)
  /-- SEL: select channel `c` and restart digit entry. -/
  | sel (c : ChIdx)
  /-- DIG: one digit, of value `v`. -/
  | dig (v : Nat)
  /-- IGN: any other byte. -/
  | ign
deriving DecidableEq, Repr

/-- Class and field of a row: the row's `action` and `source_fields` in spec/opcode_table.json. -/
def Instr.token : Instr → Token
  | .queryA => .qry 0
  | .queryB => .qry 1
  | .queryC => .qry 2
  | .queryD => .qry 3
  | .queryE => .qry 4
  | .queryF => .qry 5
  | .queryG => .qry 6
  | .queryH => .qry 7
  | .selectA => .sel 0
  | .selectB => .sel 1
  | .selectC => .sel 2
  | .selectD => .sel 3
  | .selectE => .sel 4
  | .selectF => .sel 5
  | .selectG => .sel 6
  | .selectH => .sel 7
  | .digit0 => .dig 0
  | .digit1 => .dig 1
  | .digit2 => .dig 2
  | .digit3 => .dig 3
  | .digit4 => .dig 4
  | .digit5 => .dig 5
  | .digit6 => .dig 6
  | .digit7 => .dig 7
  | .digit8 => .dig 8
  | .digit9 => .dig 9
  | .ignore _ => .ign

end Sys2Proof
end

