-- ==== Sys2Proof/Machine/Classify.lean ====
section
/-! DEFINITION. The byte ranges of the token classes (R72 to R74) and the spec's `classify` (R100), written from the
ranges; Decode.lean is written from the opcode table, and the two are compared by a statement. -/

namespace Sys2Proof.Machine

/-- R72: a query byte is `0x41 ≤ b ≤ 0x41 + N_CH − 1`. -/
def isQueryByte (cfg : Config) (b : Byte) : Bool :=
  decide (0x41 ≤ b.toNat ∧ b.toNat ≤ 0x41 + cfg.nCh - 1)

/-- R73: a select byte is `0x61 ≤ b ≤ 0x61 + N_CH − 1`. -/
def isSelectByte (cfg : Config) (b : Byte) : Bool :=
  decide (0x61 ≤ b.toNat ∧ b.toNat ≤ 0x61 + cfg.nCh - 1)

/-- R74: a digit byte is `0x31 ≤ b ≤ 0x39`, or 0x30 when `ZERO_IS_DIGIT`. -/
def isDigitByte (cfg : Config) (b : Byte) : Bool :=
  decide ((0x31 ≤ b.toNat ∧ b.toNat ≤ 0x39) ∨ (b.toNat = 0x30 ∧ cfg.zero_is_digit = true))

/-- R100, in the order of the spec's text; R75: the ranges are disjoint, so the order changes nothing. -/
def classify (cfg : Config) (b : Byte) : Token :=
  if isQueryByte cfg b then .qry (BitVec.ofNat 3 (b.toNat - 0x41))
  else if isSelectByte cfg b then .sel (BitVec.ofNat 3 (b.toNat - 0x61))
  else if isDigitByte cfg b then .dig (b.toNat - 0x30)
  else .ign

end Sys2Proof.Machine
end

