-- ==== Sys2Proof/WellFormed.lean ====
section
/-! DEFINITION. Which terms of `Instr` are tokens of a block built with given parameters. -/

namespace Sys2Proof

/-- The `condition` of the token's row of spec/opcode_table.json: QUERY_H and SELECT_h need `N_CH = 8`, DIGIT_0 needs
`ZERO_IS_DIGIT`, IGNORE is for "every byte no row above claims" (R76, R81); every other row is present always. -/
def Instr.wellFormed (cfg : Config) : Instr → Bool
  | .queryA | .queryB | .queryC | .queryD | .queryE | .queryF | .queryG => true
  | .queryH => decide (cfg.n_ch = .eight)
  | .selectA | .selectB | .selectC | .selectD | .selectE | .selectF | .selectG => true
  | .selectH => decide (cfg.n_ch = .eight)
  | .digit0 => cfg.zero_is_digit
  | .digit1 | .digit2 | .digit3 | .digit4 | .digit5 | .digit6 | .digit7 | .digit8 | .digit9 => true
  | .ignore b => decide (Machine.classify cfg b = .ign)

end Sys2Proof
end

