-- ==== Sys2Proof/Decode.lean ====
section
/-! DEFINITION. The decoder and the encoder of the token set, both written from spec/opcode_table.json. -/

namespace Sys2Proof

/-- The rows of spec/opcode_table.json with mask 0xFF: the byte matched and the token. -/
def tokenRows : List (Byte × Instr) :=
  [(0x41, .queryA), (0x42, .queryB), (0x43, .queryC), (0x44, .queryD),
   (0x45, .queryE), (0x46, .queryF), (0x47, .queryG), (0x48, .queryH)] ++
  [(0x61, .selectA), (0x62, .selectB), (0x63, .selectC), (0x64, .selectD),
   (0x65, .selectE), (0x66, .selectF), (0x67, .selectG), (0x68, .selectH)] ++
  [(0x30, .digit0), (0x31, .digit1), (0x32, .digit2), (0x33, .digit3), (0x34, .digit4),
   (0x35, .digit5), (0x36, .digit6), (0x37, .digit7), (0x38, .digit8), (0x39, .digit9)]

/-- The row that matches a byte, if one does. -/
def rowOf (b : Byte) : List (Byte × Instr) → Option Instr
  | [] => none
  | (m, i) :: rows => if b = m then some i else rowOf b rows

/-- The token of a byte. Total: "Every byte is either one of the tokens of rule R72 to rule R74 or IGN" (R77). A row
whose condition fails under the parameters is IGNORE (R81), and the catch-all row IGNORE comes last. -/
def decodeByte (cfg : Config) (b : Byte) : Instr :=
  match rowOf b tokenRows with
  | some i => if i.wellFormed cfg then i else .ignore b
  | none => .ignore b

/-- Why a string of bytes is no token. -/
inductive DecodeRefusal where
  /-- A token is exactly one byte (R70: "the length of a token is always 1"). -/
  | notOneByte (length : Nat)
deriving DecidableEq, Repr

/-- Decoding of any string of bytes: one byte is a token, any other length is refused by name (R70). -/
def decode (cfg : Config) : List Byte → Except DecodeRefusal Instr
  | [b] => .ok (decodeByte cfg b)
  | bs => .error (.notOneByte bs.length)

/-- The byte of a token, from the `match` column of spec/opcode_table.json. -/
def encodeByte : Instr → Byte
  | .queryA => 0x41
  | .queryB => 0x42
  | .queryC => 0x43
  | .queryD => 0x44
  | .queryE => 0x45
  | .queryF => 0x46
  | .queryG => 0x47
  | .queryH => 0x48
  | .selectA => 0x61
  | .selectB => 0x62
  | .selectC => 0x63
  | .selectD => 0x64
  | .selectE => 0x65
  | .selectF => 0x66
  | .selectG => 0x67
  | .selectH => 0x68
  | .digit0 => 0x30
  | .digit1 => 0x31
  | .digit2 => 0x32
  | .digit3 => 0x33
  | .digit4 => 0x34
  | .digit5 => 0x35
  | .digit6 => 0x36
  | .digit7 => 0x37
  | .digit8 => 0x38
  | .digit9 => 0x39
  | .ignore b => b

/-- The words of a token: its one byte. -/
def encode (i : Instr) : List Byte := [encodeByte i]

/-- The byte that a word of the opcode table stands for: bits `nbits − 1` to 0 of `w`, the bits above them 0. -/
def tableByte (nbits w : Nat) : Byte := BitVec.ofNat 8 (w % 2 ^ nbits)

/-- The bytes of a table word of `nbits` bits: one byte, or more where `nbits` is over 8 (no row of the table is). -/
def tableBytes (nbits w : Nat) : List Byte :=
  tableByte nbits w :: (List.range ((nbits + 7) / 8 - 1)).map fun k => BitVec.ofNat 8 (w % 2 ^ nbits / 2 ^ (8 * (k + 1)))

/-- What the decoder reads from a word of the opcode table, under the parameters that make every row a token of its
own (see notes/assumptions/3.md). -/
def decodeTableWord (nbits w : Nat) : Option Instr :=
  match decode Config.table (tableBytes nbits w) with
  | .ok i => some i
  | .error _ => none

end Sys2Proof
end

