-- ==== Sys2Proof/Machine/State.lean ====
section
/-! DEFINITION. The state record (R20), the sampled inputs (R180), the reasons a step can stop, and the reset state
(R32). -/

namespace Sys2Proof.Machine

/-- Registry entry of one channel (R25 to R28). -/
structure Channel where
  /-- `pos[c]`: the stored position (R25). -/
  pos : Level
  /-- `tgt[c]`: the target (R26). -/
  tgt : Level
  /-- `tv[c]`: the target is set (R27). -/
  tv : Bool
  /-- `mot[c]`: bit 1 the up line, bit 0 the down line (R28). -/
  mot : Lines
deriving DecidableEq, Repr

/-- The inputs sampled before one clock edge (R170, R180). -/
structure Inputs where
  rst : Bool
  in_valid : Bool
  in_data : Byte
  qry_ready : Bool
  pos_wr_en : Bool
  pos_wr_ch : ChIdx
  pos_wr_data : Level
deriving DecidableEq, Repr

/-- A cycle in which no agent of the environment drives anything. -/
def Inputs.idle : Inputs :=
  { rst := false, in_valid := false, in_data := 0, qry_ready := false, pos_wr_en := false, pos_wr_ch := 0, pos_wr_data := 0 }

/-- The state record `S` of R20, with two fields of the model's own: `cfg` (the build parameters, which are
configuration, R37; no step writes it) and `inputs` (what the environment will drive, one entry a cycle). -/
@[ext]
structure State where
  /-- The build parameters (R6). The model's own field: notes/assumptions/1.md. -/
  cfg : Config
  /-- A channel has been selected since reset (R21). -/
  sel_v : Bool
  /-- The selected channel (R22). -/
  sel : ChIdx
  /-- The partly built target (R23). -/
  acc : Level
  /-- The digit index: hundreds 2, tens 1, units 0 (R24). -/
  rd : DigitIndex
  /-- The channel registry, one entry for each c in 0..N_CH−1, channel 0 first (R25 to R28). -/
  chans : List Channel
  /-- A query is pending (R29). -/
  qv : Bool
  /-- The queried channel (R29). -/
  qch : ChIdx
  /-- The position snapshot of the query (R29). -/
  qpos : Level
  /-- The action of the token consumed in the previous cycle (R30). -/
  act : BitVec 2
  /-- Its channel (R30). -/
  act_ch : ChIdx
  /-- Its target (R30). -/
  act_tgt : Level
  /-- The inputs of the cycles to come, the next first; past its end every cycle is `Inputs.idle`. The model's own
  field: notes/assumptions/4.md. -/
  inputs : List Inputs
deriving DecidableEq, Repr

/-- The block raises no exception and no input makes it fault (R77, R200): there is no fault
(notes/assumptions/13.md). -/
inductive Fault where
deriving DecidableEq, Repr

/-- Why a step has no meaning. -/
inductive Refusal where
  /-- Raised by an arm of `exec` whose token has no meaning yet. Safe: nothing can be proved of the token. No arm
  raises it now. -/
  | notModelled (mnemonic : String)
  /-- Raised by a cycle without reset, and by every token, in a state "the block is not specified from" (R33, D28,
  U10 "refuse"): `rd = 3`, `mot[c] = 0b11`, `acc > 999`, `pos[c] > 999` or `sel ≥ N_CH`, or a registry that has not
  `N_CH` entries. Safe: no reachable state is refused. -/
  | unspecifiedState
deriving DecidableEq, Repr

/-- A registry entry after reset: position 0, target 999 and unset, STOP (R32). -/
def Channel.reset : Channel := { pos := 0, tgt := targetReset, tv := false, mot := 0b00 }

/-- RESET_STATE (R32) of a block built with `cfg`, with the inputs still to come. -/
def State.resetOf (cfg : Config) (inputs : List Inputs) : State :=
  { cfg := cfg
    sel_v := false, sel := 0, acc := 0, rd := rdInit
    chans := List.replicate cfg.nCh Channel.reset
    qv := false, qch := 0, qpos := 0
    act := 0, act_ch := 0, act_tgt := 0
    inputs := inputs }

/-- The machine right after reset (R32), for the reference parameters, with nothing offered to it. -/
def State.reset : State := State.resetOf Config.reference []

end Sys2Proof.Machine
end

