-- ==== Sys2Proof/Machine/Ops.lean ====
section
/-! DEFINITION. The named operations over the state record that the meanings share: reading and writing a registry
entry, the action of a token and its encoding, the states the spec specifies the block from, and how a token retires.
The block has no memory (R50) and takes no exception (R200, R204), so there is neither a memory operation nor an
exception entry or return here. -/

namespace Sys2Proof.Machine

/-- Read the registry entry of channel `c` (R50, R51). An index of `N_CH` or above never reaches storage (R52); the
read is made total by the reset entry, which no meaning uses (notes/assumptions/6.md). -/
def State.chan (s : State) (c : ChIdx) : Channel := s.chans.getD c.toNat Channel.reset

/-- Write the registry entry of channel `c` whole (R56). -/
def State.setChan (s : State) (c : ChIdx) (ch : Channel) : State := { s with chans := s.chans.set c.toNat ch }

/-- The action of a step (R110): "one of {None, Select(channel), Query(channel), MoveRequest(channel, target)}". -/
inductive Action where
  | none
  | select (c : ChIdx)
  | query (c : ChIdx)
  | move (c : ChIdx) (t : Level)
deriving DecidableEq, Repr

/-- The 2-bit code of an action (R82). -/
def Action.code : Action → BitVec 2
  | .none => 0
  | .select _ => 1
  | .query _ => 2
  | .move _ _ => 3

/-- `act_ch` of an action (R82): 0 for NONE. -/
def Action.channel : Action → ChIdx
  | .none => 0
  | .select c => c
  | .query c => c
  | .move c _ => c

/-- `act_tgt` of an action (R82): 0 but for MOVE. -/
def Action.target : Action → Level
  | .none => 0
  | .select _ => 0
  | .query _ => 0
  | .move _ t => t

/-- Load the action registers (R30, R179). -/
def State.loadAction (s : State) (a : Action) : State :=
  { s with act := a.code, act_ch := a.channel, act_tgt := a.target }

/-- A registry entry that D28 and U10 do not refuse. -/
def Channel.specified (ch : Channel) : Bool := decide (ch.pos.toNat ≤ posMax ∧ ch.mot ≠ 0b11)

/-- The states the block is specified from: none of the start states that D28 and U10 name for refusal, and a registry
of `N_CH` entries (notes/assumptions/5.md). -/
def State.specified (s : State) : Bool :=
  decide (s.chans.length = s.cfg.nCh ∧ s.acc.toNat ≤ posMax ∧ s.rd ≠ 3 ∧ s.sel.toNat < s.cfg.nCh) &&
    s.chans.all Channel.specified

/-- The next state that `f` gives, where the block is specified; a refusal by name where it is not (D28). -/
def guarded (s : State) (f : State → State) : Host.Outcome State Fault Refusal :=
  if s.specified then .next (f s) else .refused .unspecifiedState

/-- How every token retires: the element writes `f` land together with the encoding of the action `a` (R57, R110,
R179). Both read the state before the edge. -/
def retire (s : State) (f : State → State) (a : Action) : Host.Outcome State Fault Refusal :=
  guarded s fun u => (f u).loadAction a

/-- Go on from a next state; a fault or a refusal stays what it is. -/
def onNext (o : Host.Outcome State Fault Refusal) (f : State → Host.Outcome State Fault Refusal) :
    Host.Outcome State Fault Refusal :=
  match o with
  | .next s => f s
  | .fault r => .fault r
  | .refused r => .refused r

end Sys2Proof.Machine
end

