-- ==== Sys2Proof/Machine/Ignore.lean ====
section
/-! DEFINITION. The IGNORE token (R109) and what every ignored byte or digit does. -/

namespace Sys2Proof.Machine

/-- `emit NONE` and nothing else: no state other than the action registers changes (R76, R108, R109). -/
def ignored (s : State) : Host.Outcome State Fault Refusal := retire s (fun u => u) .none

/-- A row of the table under its `condition`, "(else IGNORE)" (R81; notes/assumptions/7.md). -/
def whenPresent (present : Bool) (meaning : State → Host.Outcome State Fault Refusal) (s : State) :
    Host.Outcome State Fault Refusal :=
  if present then meaning s else ignored s

/-- IGNORE (R109). The byte is dropped, whatever it is. -/
def execIgnore (_b : Byte) (s : State) : Host.Outcome State Fault Refusal := ignored s

end Sys2Proof.Machine
end

