-- ==== Sys2Proof/Machine/Operands.lean ====
section
/-! DEFINITION. Operand assembly. A token carries no immediate; the one operand assembled across tokens is the target,
one digit at a time (R78). A token's own operands (channel index, digit value) are fixed by its row. -/

namespace Sys2Proof.Machine

/-- What a digit of value `v` contributes at digit index `rd`: `v * 10^rd`, that is 100·v, 10·v or v (R78). -/
def contribution (v : Nat) (rd : DigitIndex) : Nat := v * 10 ^ rd.toNat

/-- `acc + v * 10^rd`, exact (R104; R8: exact arithmetic on naturals). -/
def digitSum (v : Nat) (s : State) : Nat := s.acc.toNat + contribution v s.rd

/-- The range check of R104: the sum would pass `POS_MAX`. -/
def passesMax (v : Nat) (s : State) : Bool := decide (posMax < digitSum v s)

end Sys2Proof.Machine
end

