-- ==== Sys2Proof/Machine/Motion.lean ====
section
/-! DEFINITION. The motion-output steering mux (spec/42_motion_output.md). -/

namespace Sys2Proof.Machine

/-- STOP: both lines low, the only idle state (R151). -/
def linesStop : Lines := 0b00

/-- UP: up line high, down line low (R151). -/
def linesUp : Lines := 0b10

/-- DOWN: up line low, down line high (R151). -/
def linesDown : Lines := 0b01

/-- The direction decision (R150): unsigned, on the full 10-bit values. -/
def steer (t p : Level) : Lines :=
  if t.toNat < p.toNat then linesDown
  else if p.toNat < t.toNat then linesUp
  else linesStop

/-- The up line of a channel, `mot[c][1]` (R153). -/
def Channel.up (ch : Channel) : Bool := ch.mot.getLsbD 1

/-- The down line of a channel, `mot[c][0]` (R153). -/
def Channel.down (ch : Channel) : Bool := ch.mot.getLsbD 0

end Sys2Proof.Machine
end

