-- ==== Sys2Proof/Machine/Registry.lean ====
section
/-! DEFINITION. The operations on the channel registry (spec/41_channel_registry.md). -/

namespace Sys2Proof.Machine

/-- set_target (R130): store the target, mark it set and steer against the position held before the edge. -/
def setTarget (c : ChIdx) (t : Level) (s : State) : State :=
  s.setChan c { s.chan c with tgt := t, tv := true, mot := steer t (s.chan c).pos }

/-- query (R134): the stored position, with no side effect. -/
def queryPosition (c : ChIdx) (s : State) : Level := (s.chan c).pos

/-- The external position write (R136); an index or a value out of range has no effect (R138). -/
def positionWrite (inp : Inputs) (s : State) : State :=
  if inp.pos_wr_en = true ∧ inp.pos_wr_ch.toNat < s.cfg.nCh ∧ inp.pos_wr_data.toNat ≤ posMax then
    s.setChan inp.pos_wr_ch { s.chan inp.pos_wr_ch with pos := inp.pos_wr_data }
  else s

end Sys2Proof.Machine
end

