-- ==== Sys2Proof/Machine/Digit.lean ====
section
/-! DEFINITION. The DIGIT tokens (R104 to R108), phase by phase. -/

namespace Sys2Proof.Machine

/-- DIGIT in phase PH_H (R105). -/
def digitHundreds (v : Nat) (s : State) : Host.Outcome State Fault Refusal :=
  retire s (fun u => { u with acc := BitVec.ofNat 10 (u.acc.toNat + v * 100), rd := 1 }) .none

/-- DIGIT in phase PH_T (R106). -/
def digitTens (v : Nat) (s : State) : Host.Outcome State Fault Refusal :=
  retire s (fun u => { u with acc := BitVec.ofNat 10 (u.acc.toNat + v * 10), rd := 0 }) .none

/-- The target that a units digit completes, `acc + v` (R107). -/
def completedTarget (v : Nat) (s : State) : Level := BitVec.ofNat 10 (s.acc.toNat + v)

/-- DIGIT in phase PH_U (R107): the command completes. `rd` is not changed, so the next digit completes again
(carry-over). -/
def digitUnits (v : Nat) (s : State) : Host.Outcome State Fault Refusal :=
  retire s (fun u => setTarget u.sel (completedTarget v u) { u with acc := completedTarget v u })
    (.move s.sel (completedTarget v s))

/-- DIGIT(v) (R104): with no channel selected (R108) or a sum past 999 (R107) the digit is ignored; else the phase
decides. -/
def digit (v : Nat) (s : State) : Host.Outcome State Fault Refusal :=
  if s.sel_v = false then ignored s
  else if passesMax v s then ignored s
  else if s.rd = 2 then digitHundreds v s
  else if s.rd = 1 then digitTens v s
  else digitUnits v s

/-- DIGIT_0 (R104), present when `ZERO_IS_DIGIT`, else IGNORE (R74, R81). -/
def execDigit0 (s : State) : Host.Outcome State Fault Refusal := whenPresent s.cfg.zero_is_digit (digit 0) s

/-- DIGIT_1 (R104). -/
def execDigit1 (s : State) : Host.Outcome State Fault Refusal := digit 1 s

/-- DIGIT_2 (R104). -/
def execDigit2 (s : State) : Host.Outcome State Fault Refusal := digit 2 s

/-- DIGIT_3 (R104). -/
def execDigit3 (s : State) : Host.Outcome State Fault Refusal := digit 3 s

/-- DIGIT_4 (R104). -/
def execDigit4 (s : State) : Host.Outcome State Fault Refusal := digit 4 s

/-- DIGIT_5 (R104). -/
def execDigit5 (s : State) : Host.Outcome State Fault Refusal := digit 5 s

/-- DIGIT_6 (R104). -/
def execDigit6 (s : State) : Host.Outcome State Fault Refusal := digit 6 s

/-- DIGIT_7 (R104). -/
def execDigit7 (s : State) : Host.Outcome State Fault Refusal := digit 7 s

/-- DIGIT_8 (R104). -/
def execDigit8 (s : State) : Host.Outcome State Fault Refusal := digit 8 s

/-- DIGIT_9 (R104). -/
def execDigit9 (s : State) : Host.Outcome State Fault Refusal := digit 9 s

end Sys2Proof.Machine
end

