-- ==== Sys2Proof/Machine/Query.lean ====
section
/-! DEFINITION. The QUERY tokens (R102). -/

namespace Sys2Proof.Machine

/-- QUERY(c) (R102): the query buffer takes the channel and the position held before the edge. It writes none of
`sel_v`, `sel`, `acc`, `rd` (R115). -/
def query (c : ChIdx) (s : State) : Host.Outcome State Fault Refusal :=
  retire s (fun u => { u with qv := true, qch := c, qpos := queryPosition c u }) (.query c)

/-- QUERY_A (R102). -/
def execQueryA (s : State) : Host.Outcome State Fault Refusal := query 0 s

/-- QUERY_B (R102). -/
def execQueryB (s : State) : Host.Outcome State Fault Refusal := query 1 s

/-- QUERY_C (R102). -/
def execQueryC (s : State) : Host.Outcome State Fault Refusal := query 2 s

/-- QUERY_D (R102). -/
def execQueryD (s : State) : Host.Outcome State Fault Refusal := query 3 s

/-- QUERY_E (R102). -/
def execQueryE (s : State) : Host.Outcome State Fault Refusal := query 4 s

/-- QUERY_F (R102). -/
def execQueryF (s : State) : Host.Outcome State Fault Refusal := query 5 s

/-- QUERY_G (R102). -/
def execQueryG (s : State) : Host.Outcome State Fault Refusal := query 6 s

/-- QUERY_H (R102), present when `N_CH = 8`, else IGNORE (R72, R81). -/
def execQueryH (s : State) : Host.Outcome State Fault Refusal :=
  whenPresent (decide (s.cfg.n_ch = .eight)) (query 7) s

end Sys2Proof.Machine
end

