-- ==== Sys2Proof/Machine/Select.lean ====
section
/-! DEFINITION. The SELECT tokens (R103). -/

namespace Sys2Proof.Machine

/-- SELECT(c) (R103): select the channel, `acc = 0`, `rd = 2`. It changes no channel. -/
def select (c : ChIdx) (s : State) : Host.Outcome State Fault Refusal :=
  retire s (fun u => { u with sel_v := true, sel := c, acc := 0, rd := rdInit }) (.select c)

/-- SELECT_a (R103). -/
def execSelectA (s : State) : Host.Outcome State Fault Refusal := select 0 s

/-- SELECT_b (R103). -/
def execSelectB (s : State) : Host.Outcome State Fault Refusal := select 1 s

/-- SELECT_c (R103). -/
def execSelectC (s : State) : Host.Outcome State Fault Refusal := select 2 s

/-- SELECT_d (R103). -/
def execSelectD (s : State) : Host.Outcome State Fault Refusal := select 3 s

/-- SELECT_e (R103). -/
def execSelectE (s : State) : Host.Outcome State Fault Refusal := select 4 s

/-- SELECT_f (R103). -/
def execSelectF (s : State) : Host.Outcome State Fault Refusal := select 5 s

/-- SELECT_g (R103). -/
def execSelectG (s : State) : Host.Outcome State Fault Refusal := select 6 s

/-- SELECT_h (R103), present when `N_CH = 8`, else IGNORE (R73, R81). -/
def execSelectH (s : State) : Host.Outcome State Fault Refusal :=
  whenPresent (decide (s.cfg.n_ch = .eight)) (select 7) s

end Sys2Proof.Machine
end

