-- ==== Sys2Proof/Machine/Dispatch.lean ====
section
/-! DEFINITION. One arm for each token (R102 to R109): the meaning of a consumed byte. -/

namespace Sys2Proof.Machine

def exec (i : Instr) (s : State) : Host.Outcome State Fault Refusal :=
  match i with
  | .queryA => Sys2Proof.Machine.execQueryA s
  | .queryB => Sys2Proof.Machine.execQueryB s
  | .queryC => Sys2Proof.Machine.execQueryC s
  | .queryD => Sys2Proof.Machine.execQueryD s
  | .queryE => Sys2Proof.Machine.execQueryE s
  | .queryF => Sys2Proof.Machine.execQueryF s
  | .queryG => Sys2Proof.Machine.execQueryG s
  | .queryH => Sys2Proof.Machine.execQueryH s
  | .selectA => Sys2Proof.Machine.execSelectA s
  | .selectB => Sys2Proof.Machine.execSelectB s
  | .selectC => Sys2Proof.Machine.execSelectC s
  | .selectD => Sys2Proof.Machine.execSelectD s
  | .selectE => Sys2Proof.Machine.execSelectE s
  | .selectF => Sys2Proof.Machine.execSelectF s
  | .selectG => Sys2Proof.Machine.execSelectG s
  | .selectH => Sys2Proof.Machine.execSelectH s
  | .digit0 => Sys2Proof.Machine.execDigit0 s
  | .digit1 => Sys2Proof.Machine.execDigit1 s
  | .digit2 => Sys2Proof.Machine.execDigit2 s
  | .digit3 => Sys2Proof.Machine.execDigit3 s
  | .digit4 => Sys2Proof.Machine.execDigit4 s
  | .digit5 => Sys2Proof.Machine.execDigit5 s
  | .digit6 => Sys2Proof.Machine.execDigit6 s
  | .digit7 => Sys2Proof.Machine.execDigit7 s
  | .digit8 => Sys2Proof.Machine.execDigit8 s
  | .digit9 => Sys2Proof.Machine.execDigit9 s
  | .ignore b => Sys2Proof.Machine.execIgnore b s

end Sys2Proof.Machine
end

