-- ==== Sys2Proof/Machine/Cycle.lean ====
section
/-! DEFINITION. The parts of the cycle step (spec/43_interface_cycle.md): what is sampled, when a byte is consumed, and
what a cycle does around the consumed token. -/

namespace Sys2Proof.Machine

/-- The inputs sampled for the next clock edge (R171). Past the end of the inputs still to come the cycle is idle
(notes/assumptions/4.md). -/
def State.sampled (s : State) : Inputs := s.inputs.headD Inputs.idle

/-- `in_ready = (not rst) and (not S.qv)` (R173). -/
def State.inReady (s : State) : Bool := !s.sampled.rst && !s.qv

/-- The cycle consumes the byte on `in_data`: `in_valid = 1` and `in_ready = 1` (R173). -/
def State.fires (s : State) : Bool := s.sampled.in_valid && s.inReady

/-- The token of the byte on `in_data`, under the block's own parameters (R174, R100). -/
def State.fetched (s : State) : Instr := decodeByte s.cfg s.sampled.in_data

/-- The reset cycle (R230): RESET_STATE, for the parameters the block was built with. -/
def resetCycle (s : State) : State := State.resetOf s.cfg s.inputs.tail

/-- The query handshake (R177): it completes with `qv = 1` and `qry_ready = 1`; `qch` and `qpos` keep their values. -/
def handshake (inp : Inputs) (s : State) : State := { s with qv := s.qv && !inp.qry_ready }

/-- A cycle that consumes no byte: the handshake, and the action registers load NONE (R177, R179). -/
def waitCycle (inp : Inputs) (s : State) : State := (handshake inp s).loadAction .none

/-- What ends every cycle but a reset: the position write lands after the byte step's read (R61, R180), and the inputs
of this cycle are past. -/
def endCycle (inp : Inputs) (s : State) : State := { positionWrite inp s with inputs := s.inputs.tail }

/-- The cycle that consumes a byte: its token, then the end of the cycle (R180). -/
def consumingCycle (s : State) : Host.Outcome State Fault Refusal :=
  onNext (exec s.fetched s) fun t => .next (endCycle s.sampled t)

/-- The cycle that consumes no byte (R173, R177, R180). -/
def waitingCycle (s : State) : Host.Outcome State Fault Refusal :=
  guarded s fun u => endCycle u.sampled (waitCycle u.sampled u)

/-- One clock edge (R180): reset wins (R206), then a byte is consumed or not. -/
def clockEdge (s : State) : Host.Outcome State Fault Refusal :=
  if s.sampled.rst then .next (resetCycle s)
  else if s.fires then consumingCycle s
  else waitingCycle s

/-- The parameters `cfg`, raised where a byte is a token of the opcode table only under `N_CH = 8` or
`ZERO_IS_DIGIT` (R81). -/
def admitting (cfg : Config) (b : Byte) : Config :=
  { n_ch := if b = 0x48 ∨ b = 0x68 then .eight else cfg.n_ch
    zero_is_digit := if b = 0x30 then true else cfg.zero_is_digit }

/-- `s` with a byte offered in the very next cycle: that cycle's `rst`, `in_valid` and `in_data` are set, no query is
pending, and the block is one in which the byte is the opcode table's token. Everything else stays
(notes/assumptions/3.md). -/
def offerNext (s : State) (b : Byte) : State :=
  { s with
    cfg := admitting s.cfg b
    qv := false
    inputs := { s.sampled with rst := false, in_valid := true, in_data := b } :: s.inputs.tail }

end Sys2Proof.Machine
end

