-- ==== Sys2Proof/Machine/Step.lean ====
section
/-! DEFINITION. One step is one clock edge (R171, R180); and the placing of a token for the very next step. -/

namespace Sys2Proof.Machine

/-- One step: one clock edge (R180). -/
def step (s : State) : Host.Outcome State Fault Refusal := clockEdge s

/-- `s` with the token of an opcode-table word offered in the very next cycle (notes/assumptions/3.md). -/
def State.withFetchWord (s : State) (nbits w : Nat) : State := offerNext s (tableByte nbits w)

end Sys2Proof.Machine
end

