-- ==== Sys2Proof/Machine/Reference.lean ====
section
/-! DEFINITION. The spec's own pseudocode of the token step (R111) and of the cycle (R180), transcribed line by line
over `classify` (R100). `step` does not call it: the meanings and the step are written from the rules of each token and
handshake, and statements compare the two. -/

namespace Sys2Proof.Machine

/-- `feed(S, b)` (R111). -/
def feed (S : State) (b : Byte) : State × Action :=
  match classify S.cfg b with
  | .qry c => ({ S with qv := true, qch := c, qpos := (S.chan c).pos }, .query c)
  | .sel c => ({ S with sel_v := true, sel := c, acc := 0, rd := 2 }, .select c)
  | .dig v =>
    if S.sel_v = false then (S, .none)
    else
      let sum := S.acc.toNat + v * 10 ^ S.rd.toNat
      if 999 < sum then (S, .none)
      else
        let t : Level := BitVec.ofNat 10 sum
        if S.rd = 0 then
          ({ S with acc := t }.setChan S.sel
            { pos := (S.chan S.sel).pos, tgt := t, tv := true, mot := steer t (S.chan S.sel).pos }, .move S.sel t)
        else ({ S with acc := t, rd := S.rd - 1 }, .none)
  | .ign => (S, .none)

/-- `cycle(S, in)` (R180). The inputs still to come are no element of the spec's state; `cycle` leaves them alone but
on reset, which keeps those after this cycle. -/
def cycle (S : State) (inp : Inputs) : State :=
  if inp.rst then State.resetOf S.cfg S.inputs
  else
    let fire := inp.in_valid && !S.qv
    let stepped := if fire then feed S inp.in_data else (S, .none)
    let S1 := stepped.1
    let S2 := if S.qv && inp.qry_ready then { S1 with qv := false } else S1
    let S3 :=
      if inp.pos_wr_en && decide (inp.pos_wr_ch.toNat < S.cfg.nCh) && decide (inp.pos_wr_data.toNat ≤ 999) then
        { S2 with chans := S2.chans.modify inp.pos_wr_ch.toNat fun ch => { ch with pos := inp.pos_wr_data } }
      else S2
    { S3 with act := stepped.2.code, act_ch := stepped.2.channel, act_tgt := stepped.2.target }

end Sys2Proof.Machine
end

