-- ==== Sys2Proof/Machine/Flags.lean ====
section
/-! DEFINITION. The status flags are `sel_v`, `tv[c]` and `qv`; there are no condition codes (R39). Each is written only
where its rule says, by a field update of the meaning itself; this file holds what is read from them: the FSM phase
and the query wait (R35). -/

namespace Sys2Proof.Machine

/-- The four phases of the decoder FSM (R35). -/
inductive Phase where
  /-- NOSEL: no channel selected; digits are ignored. -/
  | nosel
  /-- PH_H: expecting the hundreds digit. -/
  | hundreds
  /-- PH_T: expecting the tens digit. -/
  | tens
  /-- PH_U: expecting the units digit; absorbing for digits (carry-over). -/
  | units
deriving DecidableEq, Repr

/-- The phase (R35), decided by `sel_v` and `rd`. `rd = 3` is never produced and its states are refused (D28), so the
last case is `rd = 0`. -/
def State.phase (s : State) : Phase :=
  if s.sel_v = false then .nosel
  else if s.rd = 2 then .hundreds
  else if s.rd = 1 then .tens
  else .units

/-- The overlay QWAIT: a query is pending and no byte is consumed (R35). -/
def State.qwait (s : State) : Bool := s.qv

end Sys2Proof.Machine
end

