-- ==== Sys2Proof/Machine/Ports.lean ====
section
/-! DEFINITION. The output ports (R170) and the contract of the downstream reporter (R183). -/

namespace Sys2Proof.Machine

/-- The values on the output ports in one cycle (R170). -/
structure Outputs where
  in_ready : Bool
  qry_valid : Bool
  qry_ch : ChIdx
  qry_pos : Level
  /-- One line for each channel, channel 0 first. -/
  mot_up : List Bool
  /-- One line for each channel, channel 0 first. -/
  mot_dn : List Bool
  act : BitVec 2
  act_ch : ChIdx
  act_tgt : Level
deriving DecidableEq, Repr

/-- The output ports: all but `in_ready` come straight from a register (R153, R170, R173, R176, R179). -/
def State.outputs (s : State) : Outputs :=
  { in_ready := s.inReady
    qry_valid := s.qv, qry_ch := s.qch, qry_pos := s.qpos
    mot_up := s.chans.map Channel.up, mot_dn := s.chans.map Channel.down
    act := s.act, act_ch := s.act_ch, act_tgt := s.act_tgt }

/-- The ASCII byte of a decimal digit (R71). -/
def asciiDigit (d : Nat) : Byte := BitVec.ofNat 8 (0x30 + d)

/-- The four bytes of a report (R183): the lowercase channel letter, then hundreds, tens and units. The reporter is
outside the block; the contract is kept for a position of at most 999 (notes/assumptions/11.md). -/
def report (c : ChIdx) (p : Level) : List Byte :=
  [BitVec.ofNat 8 (0x61 + c.toNat), asciiDigit (p.toNat / 100), asciiDigit (p.toNat / 10 % 10), asciiDigit (p.toNat % 10)]

/-- The report that the query port asks for, while `qry_valid = 1` (R176). -/
def State.requestedReport (s : State) : Option (List Byte) :=
  if s.qv then some (report s.qch s.qpos) else none

end Sys2Proof.Machine
end

