-- ==== Sys2Proof/Machine/Stream.lean ====
section
/-! DEFINITION. Token streams: the token level over a sequence of bytes (R10, R60), the cycles in which a sender and a
reporter deliver a stream, and the pseudo-commands (R79, R80). -/

namespace Sys2Proof.Machine

/-- The tokens of a stream, one after the other (R60): each byte is decoded and its meaning applied. The token level
does not look at the query wait, which is the cycle level's (R10, R111). -/
def consume : List Byte → State → Host.Outcome State Fault Refusal
  | [], s => .next s
  | b :: w, s => onNext (exec (decodeByte s.cfg b) s) (consume w)

/-- A cycle in which the sender offers a byte and nothing else happens. -/
def offer (b : Byte) : Inputs := { Inputs.idle with in_valid := true, in_data := b }

/-- A cycle in which the reporter accepts and nothing else happens. -/
def accept : Inputs := { Inputs.idle with qry_ready := true }

/-- The cycles that deliver a stream with the reporter accepting each query in the cycle after its consumption (the
convention of spec/95_test_vectors.md). -/
def schedule (cfg : Config) : List Byte → List Inputs
  | [] => []
  | b :: w => if isQueryByte cfg b then offer b :: accept :: schedule cfg w else offer b :: schedule cfg w

/-- The pseudo-commands of R80 (and the well-formed commands of R79). -/
inductive PseudoCommand where
  /-- `MOVE <letter>, <d1><d2><d3>`. -/
  | move (c : ChIdx) (d1 d2 d3 : Nat)
  /-- `QUERY <letter>`. -/
  | query (c : ChIdx)
deriving DecidableEq, Repr

/-- A digit of a pseudo-command: 1..9, or 0..9 when `ZERO_IS_DIGIT` (R80). -/
def legalDigit (cfg : Config) (d : Nat) : Bool := decide (d ≤ 9) && (decide (0 < d) || cfg.zero_is_digit)

/-- The condition under which a pseudo-command may be used (R80). -/
def PseudoCommand.legal (cfg : Config) : PseudoCommand → Bool
  | .move c d1 d2 d3 => decide (c.toNat < cfg.nCh) && legalDigit cfg d1 && legalDigit cfg d2 && legalDigit cfg d3
  | .query c => decide (c.toNat < cfg.nCh)

/-- The lowercase letter of a channel (R59, R73). -/
def selectByte (c : ChIdx) : Byte := BitVec.ofNat 8 (0x61 + c.toNat)

/-- The uppercase letter of a channel (R59, R72). -/
def queryByte (c : ChIdx) : Byte := BitVec.ofNat 8 (0x41 + c.toNat)

/-- The byte of a digit value (R71, R74). -/
def digitByte (d : Nat) : Byte := BitVec.ofNat 8 (0x30 + d)

/-- The stream a pseudo-command expands to (R80). -/
def PseudoCommand.expand : PseudoCommand → List Byte
  | .move c d1 d2 d3 => [selectByte c, digitByte d1, digitByte d2, digitByte d3]
  | .query c => [queryByte c]

end Sys2Proof.Machine
end

