-- ==== Sys2Proof/Safety.lean ====
section
/-! DEFINITION. What a good state and a safe step are, in the terms that statements use. -/

namespace Sys2Proof.Machine

/-- What R33 says of one registry entry (items 6, 7 and 8). -/
structure Channel.Inv (ch : Channel) : Prop where
  pos_le : ch.pos.toNat ≤ 999
  tgt_le : ch.tgt.toNat ≤ 999
  mot_legal : ch.mot ≠ 0b11
  unset : ch.tv = false → ch.tgt = 999 ∧ ch.mot = linesStop

/-- The invariants of R33, item by item, and that the registry has `N_CH` entries (R20). -/
structure State.Inv (s : State) : Prop where
  entries : s.chans.length = s.cfg.nCh
  acc_le : s.acc.toNat ≤ 999
  rd_legal : s.rd = 0 ∨ s.rd = 1 ∨ s.rd = 2
  hundreds : s.rd = 2 → s.acc = 0
  unselected : s.sel_v = false → s.acc = 0 ∧ s.rd = 2
  tens : s.rd = 1 → s.acc.toNat % 100 = 0 ∧ s.acc.toNat ≤ 900
  channels : ∀ ch ∈ s.chans, ch.Inv
  sel_lt : s.sel.toNat < s.cfg.nCh
  qch_lt : s.qch.toNat < s.cfg.nCh
  act_ch_lt : s.act_ch.toNat < s.cfg.nCh
  qpos_le : s.qpos.toNat ≤ 999
  act_tgt_le : s.act_tgt.toNat ≤ 999

/-- A safe outcome: the block goes on ("No byte makes the block fault, stop or hang", R77) in a state that meets R33. -/
def SafeOutcome : Host.Outcome State Fault Refusal → Prop
  | .next t => t.Inv
  | .fault _ => False
  | .refused _ => False

/-- The sender's duty R175 at one cycle: a byte offered and not consumed is offered again in the next. -/
def SenderKeepsOffer (s : State) : Prop :=
  s.sampled.in_valid = true → s.inReady = false →
    (s.inputs.tail.headD Inputs.idle).in_valid = true ∧ (s.inputs.tail.headD Inputs.idle).in_data = s.sampled.in_data

/-- Two states that agree on everything but the registry's `tgt` and `tv` and the action registers: what no rule of the
block reads (R26, R27, R110, R140, R179). -/
def SameButUnread (s u : State) : Prop :=
  (s.cfg = u.cfg ∧ s.sel_v = u.sel_v ∧ s.sel = u.sel ∧ s.acc = u.acc ∧ s.rd = u.rd ∧ s.qv = u.qv ∧ s.qch = u.qch ∧
    s.qpos = u.qpos ∧ s.inputs = u.inputs) ∧
  s.chans.map Channel.pos = u.chans.map Channel.pos ∧ s.chans.map Channel.mot = u.chans.map Channel.mot

/-- Two states with the same decoder registers (R113) and the same registry. -/
def SameDecoderAndRegistry (s u : State) : Prop :=
  s.cfg = u.cfg ∧ s.sel_v = u.sel_v ∧ s.sel = u.sel ∧ s.acc = u.acc ∧ s.rd = u.rd ∧ s.chans = u.chans

end Sys2Proof.Machine
end

