-- ==== Sys2Proof/Certificates/Slice0/Obligations.lean ====
section
/-! DEFINITION. The statements for the provers. Each docstring names the rules of spec/ that the statement formalises. -/

namespace Sys2Proof

/-- The QUERY rows of the opcode table with the channel of each (R59, R102). -/
def queryRows : List (Instr × ChIdx) :=
  [(.queryA, 0), (.queryB, 1), (.queryC, 2), (.queryD, 3), (.queryE, 4), (.queryF, 5), (.queryG, 6), (.queryH, 7)]

/-- The SELECT rows of the opcode table with the channel of each (R59, R103). -/
def selectRows : List (Instr × ChIdx) :=
  [(.selectA, 0), (.selectB, 1), (.selectC, 2), (.selectD, 3), (.selectE, 4), (.selectF, 5), (.selectG, 6), (.selectH, 7)]

/-- The DIGIT rows of the opcode table with the value of each (R74, R104). -/
def digitRows : List (Instr × Nat) :=
  [(.digit0, 0), (.digit1, 1), (.digit2, 2), (.digit3, 3), (.digit4, 4),
   (.digit5, 5), (.digit6, 6), (.digit7, 7), (.digit8, 8), (.digit9, 9)]

/-- `s` with the action registers at NONE, 0, 0 and nothing else changed. -/
def Machine.State.noAction (s : Machine.State) : Machine.State := { s with act := 0, act_ch := 0, act_tgt := 0 }

/-- The tokens that may stand between the digits of a move (R79): query and ignored bytes. -/
def Machine.isFiller (cfg : Config) (b : Byte) : Bool := !Machine.isSelectByte cfg b && !Machine.isDigitByte cfg b

end Sys2Proof

open Sys2Proof Sys2Proof.Machine

/-! ### Reset -/

/-- R32: every element at its reset value, for both values of both parameters. -/
def Obligations.ResetStateHoldsTheResetValues : Prop :=
  (∃ cfg inputs, State.reset = State.resetOf cfg inputs) ∧
  ∀ (cfg : Config) (inputs : List Inputs),
    (State.resetOf cfg inputs).sel_v = false ∧ (State.resetOf cfg inputs).sel = 0 ∧
    (State.resetOf cfg inputs).acc = 0 ∧ (State.resetOf cfg inputs).rd = 2 ∧
    (State.resetOf cfg inputs).chans.length = cfg.nCh ∧
    (∀ c : ChIdx, c.toNat < cfg.nCh →
      (State.resetOf cfg inputs).chan c = { pos := 0, tgt := 999, tv := false, mot := 0b00 }) ∧
    (State.resetOf cfg inputs).qv = false ∧ (State.resetOf cfg inputs).qch = 0 ∧
    (State.resetOf cfg inputs).qpos = 0 ∧ (State.resetOf cfg inputs).act = 0 ∧
    (State.resetOf cfg inputs).act_ch = 0 ∧ (State.resetOf cfg inputs).act_tgt = 0

/-- R230: a cycle with `rst = 1` consumes nothing and loads the reset state, from every state whatever else is driven;
a further reset cycle gives the same state, and the first cycle with `rst = 0` may consume a byte. -/
def Obligations.ResetCycleLoadsTheResetState : Prop :=
  ∀ s : State, s.sampled.rst = true →
    s.inReady = false ∧
    step s = .next (State.resetOf s.cfg s.inputs.tail) ∧
    ∀ t, step s = .next t →
      t.phase = .nosel ∧ t.qv = false ∧ t.act = 0 ∧
      (∀ ch ∈ t.chans, ch.pos = 0 ∧ ch.tgt = 999 ∧ ch.tv = false ∧ ch.up = false ∧ ch.down = false) ∧
      (t.sampled.rst = true → step t = .next (State.resetOf s.cfg t.inputs.tail)) ∧
      (t.sampled.rst = false → t.inReady = true)

/-! ### Tokens -/

/-- R102: a query token loads the query buffer with the position held before the edge, emits QUERY(c) and changes
nothing else; a letter beyond the alphabet is IGN; while a query is pending no byte is consumed and the buffer is not
overwritten. -/
def Obligations.QueryLoadsTheQueryBuffer : Prop :=
  (∀ p ∈ queryRows, ∀ s : State, s.specified = true →
    encodeByte p.1 = BitVec.ofNat 8 (0x41 + p.2.toNat) ∧
    (p.2.toNat < s.cfg.nCh →
      exec p.1 s = .next { s with qv := true, qch := p.2, qpos := (s.chan p.2).pos, act := 2, act_ch := p.2, act_tgt := 0 }) ∧
    (s.cfg.nCh ≤ p.2.toNat → decodeByte s.cfg (encodeByte p.1) = .ignore (encodeByte p.1))) ∧
  ∀ s t : State, s.qv = true → s.sampled.rst = false → step s = .next t →
    s.fires = false ∧ t.qv = !s.sampled.qry_ready ∧ t.qch = s.qch ∧ t.qpos = s.qpos

/-- R103: a select token selects its channel, restarts digit entry, emits SELECT(c) and changes nothing else; a letter
beyond the alphabet is IGN. -/
def Obligations.SelectRestartsDigitEntry : Prop :=
  ∀ p ∈ selectRows, ∀ s : State, s.specified = true →
    encodeByte p.1 = BitVec.ofNat 8 (0x61 + p.2.toNat) ∧
    (p.2.toNat < s.cfg.nCh →
      exec p.1 s = .next { s with sel_v := true, sel := p.2, acc := 0, rd := 2, act := 1, act_ch := p.2, act_tgt := 0 }) ∧
    (s.cfg.nCh ≤ p.2.toNat → decodeByte s.cfg (encodeByte p.1) = .ignore (encodeByte p.1))

/-- R105: a digit in phase PH_H. -/
def Obligations.HundredsDigitIsWeightedHundred : Prop :=
  ∀ p ∈ digitRows, ∀ s : State, s.specified = true → p.1.wellFormed s.cfg = true →
    s.sel_v = true → s.rd = 2 → s.acc = 0 →
    exec p.1 s = .next { s.noAction with acc := BitVec.ofNat 10 (100 * p.2), rd := 1 } ∧ 100 * p.2 ≤ 900

/-- R106: a digit in phase PH_T, where the accumulator is at most 900 (R33 item 5). -/
def Obligations.TensDigitIsWeightedTen : Prop :=
  ∀ p ∈ digitRows, ∀ s : State, s.specified = true → p.1.wellFormed s.cfg = true →
    s.sel_v = true → s.rd = 1 → s.acc.toNat ≤ 900 →
    exec p.1 s = .next { s.noAction with acc := BitVec.ofNat 10 (s.acc.toNat + 10 * p.2), rd := 0 } ∧
    s.acc.toNat + 10 * p.2 ≤ 990

/-- R107: a digit in phase PH_U completes the command: the sum is the target of the selected channel, steered against
the position held before the edge, and `rd` stays 0; a digit whose sum passes 999 is ignored whole, which takes an
accumulator of 991 or more. -/
def Obligations.UnitsDigitCompletesTheMove : Prop :=
  ∀ p ∈ digitRows, ∀ s : State, s.specified = true → p.1.wellFormed s.cfg = true → s.sel_v = true → s.rd = 0 →
    (s.acc.toNat + p.2 ≤ 999 →
      exec p.1 s = .next
        { s with
          acc := BitVec.ofNat 10 (s.acc.toNat + p.2)
          chans := s.chans.set s.sel.toNat
            { pos := (s.chan s.sel).pos
              tgt := BitVec.ofNat 10 (s.acc.toNat + p.2)
              tv := true
              mot := steer (BitVec.ofNat 10 (s.acc.toNat + p.2)) (s.chan s.sel).pos }
          act := 3, act_ch := s.sel, act_tgt := BitVec.ofNat 10 (s.acc.toNat + p.2) }) ∧
    (999 < s.acc.toNat + p.2 → exec p.1 s = .next s.noAction ∧ 991 ≤ s.acc.toNat)

/-- R104, in any phase with a channel selected: a digit whose exact sum passes 999 changes nothing but the action
registers; any other digit that is not the last stores the sum and steps the digit index down. -/
def Obligations.DigitAddsItsWeightedValue : Prop :=
  ∀ p ∈ digitRows, ∀ s : State, s.specified = true → p.1.wellFormed s.cfg = true → s.sel_v = true →
    (999 < s.acc.toNat + p.2 * 10 ^ s.rd.toNat → exec p.1 s = .next s.noAction) ∧
    (s.acc.toNat + p.2 * 10 ^ s.rd.toNat ≤ 999 → s.rd ≠ 0 →
      exec p.1 s =
        .next { s.noAction with acc := BitVec.ofNat 10 (s.acc.toNat + p.2 * 10 ^ s.rd.toNat), rd := s.rd - 1 })

/-- R108: a digit with no channel selected changes nothing but the action registers; NOSEL is left only by a select and
re-entered only by reset. -/
def Obligations.DigitWithoutSelectionIsIgnored : Prop :=
  (∀ p ∈ digitRows, ∀ s : State, s.specified = true → s.sel_v = false → exec p.1 s = .next s.noAction) ∧
  (∀ (i : Instr) (s t : State), exec i s = .next t → s.sel_v = false → t.sel_v = true →
    ∃ p ∈ selectRows, i = p.1 ∧ t.sel = p.2) ∧
  ∀ s t : State, step s = .next t → s.sel_v = true → t.sel_v = false → s.sampled.rst = true

/-- R109: an ignored byte changes nothing but the action registers, which load NONE; every byte that `classify` maps to
IGN decodes to it, among them `'0'` when it is no digit, `'H'` and `'h'` when `N_CH = 7`, and every byte from 0x80; it is
consumed like any other byte, in one cycle that leaves the phase unchanged and the input free. -/
def Obligations.IgnoredByteHasNoEffect : Prop :=
  (∀ (b : Byte) (s : State), s.specified = true → exec (.ignore b) s = .next s.noAction) ∧
  (∀ (b : Byte) (cfg : Config), classify cfg b = .ign → decodeByte cfg b = .ignore b) ∧
  (∀ cfg : Config, cfg.zero_is_digit = false → classify cfg 0x30 = .ign) ∧
  (∀ cfg : Config, cfg.n_ch = .seven → classify cfg 0x48 = .ign ∧ classify cfg 0x68 = .ign) ∧
  (∀ (cfg : Config) (b : Byte), 0x80 ≤ b.toNat → classify cfg b = .ign) ∧
  ∀ s t : State, s.fires = true → classify s.cfg s.sampled.in_data = .ign → step s = .next t →
    t.phase = s.phase ∧ t.qv = false ∧ t.act = 0 ∧ t.inputs = s.inputs.tail

/-- R81: "A row whose `condition` names a parameter ... is IGNORE when the condition fails". -/
def Obligations.AbsentRowActsAsIgnore : Prop :=
  ∀ i ∈ [Instr.queryH, Instr.selectH, Instr.digit0], ∀ s : State, s.specified = true → i.wellFormed s.cfg = false →
    exec i s = .next s.noAction ∧ decodeByte s.cfg (encodeByte i) = .ignore (encodeByte i)

/-- D28, U10: a token or a cycle without reset in a state the block is not specified from is refused by name. The set
of states is the model's reading of D28: notes/assumptions/5.md. -/
def Obligations.UnspecifiedStateIsRefused : Prop :=
  ∀ s : State, s.specified = false →
    (∀ i : Instr, exec i s = .refused .unspecifiedState) ∧
    (s.sampled.rst = false → step s = .refused .unspecifiedState)

/-! ### Registry and motion lines -/

/-- R150: the direction decision, for every target and position. -/
def Obligations.SteerFollowsTheOrder : Prop :=
  ∀ t p : Level,
    (t.toNat < p.toNat → steer t p = 0b01) ∧ (p.toNat < t.toNat → steer t p = 0b10) ∧ (t = p → steer t p = 0b00)

/-- R130: set_target stores the target, marks it set and steers against the stored position; it writes no other channel
and no decoder state. -/
def Obligations.SetTargetWritesOneChannel : Prop :=
  ∀ (c : ChIdx) (t : Level) (s : State), c.toNat < s.chans.length →
    (setTarget c t s).chan c =
      { pos := (s.chan c).pos, tgt := t, tv := true, mot := steer t (s.chan c).pos } ∧
    (∀ c', c' ≠ c → (setTarget c t s).chan c' = s.chan c') ∧
    setTarget c t s = { s with chans := (setTarget c t s).chans }

/-- R82: the encoding of an action on the action registers. -/
def Obligations.ActionCodesAreAsTabled : Prop :=
  ∀ (s : State) (c : ChIdx) (t : Level),
    s.loadAction .none = { s with act := 0, act_ch := 0, act_tgt := 0 } ∧
    s.loadAction (.select c) = { s with act := 1, act_ch := c, act_tgt := 0 } ∧
    s.loadAction (.query c) = { s with act := 2, act_ch := c, act_tgt := 0 } ∧
    s.loadAction (.move c t) = { s with act := 3, act_ch := c, act_tgt := t }

/-- R153, R176: the lines of each channel, the query port and the action port come straight from the registers, and the
query port asks for the report of the pending query. -/
def Obligations.OutputPortsShowTheRegisters : Prop :=
  (∀ (s : State) (c : ChIdx), c.toNat < s.chans.length →
    s.outputs.mot_up[c.toNat]? = some ((s.chan c).mot.getLsbD 1) ∧
    s.outputs.mot_dn[c.toNat]? = some ((s.chan c).mot.getLsbD 0)) ∧
  ∀ s : State,
    s.outputs.qry_valid = s.qv ∧ s.outputs.qry_ch = s.qch ∧ s.outputs.qry_pos = s.qpos ∧
    s.outputs.act = s.act ∧ s.outputs.act_ch = s.act_ch ∧ s.outputs.act_tgt = s.act_tgt ∧
    (s.qv = true → s.requestedReport = some (report s.qch s.qpos)) ∧ (s.qv = false → s.requestedReport = none)

/-- R154: `0b11` never occurs: `steer` does not return it, and no channel has both lines high after any step. -/
def Obligations.LinesAreNeverBothHigh : Prop :=
  (∀ t p : Level, steer t p ≠ 0b11) ∧
  ∀ s t : State, step s = .next t → ∀ ch ∈ t.chans, (ch.up && ch.down) = false

/-- R138, R139, R182: the stored position changes only through the port (in every cycle without reset) or by reset, and
a write out of range has no effect. -/
def Obligations.PositionChangesOnlyThroughThePort : Prop :=
  ∀ s t : State, step s = .next t → ∀ c : ChIdx, c.toNat < s.cfg.nCh →
    (s.sampled.rst = true → (t.chan c).pos = 0) ∧
    (s.sampled.rst = false →
      (t.chan c).pos =
        if s.sampled.pos_wr_en = true ∧ s.sampled.pos_wr_ch = c ∧ s.sampled.pos_wr_data.toNat ≤ 999 then
          s.sampled.pos_wr_data
        else (s.chan c).pos)

/-- R137: a cycle with a position write and the same cycle without it differ in the stored position of the channel
written, and in nothing else. -/
def Obligations.PositionWriteChangesOnlyThePosition : Prop :=
  ∀ (s t : State) (inp : Inputs) (rest : List Inputs), s.inputs = inp :: rest → inp.rst = false → step s = .next t →
    ∃ u, step { s with inputs := { inp with pos_wr_en := false } :: rest } = .next u ∧
      t = { u with chans := t.chans } ∧
      (∀ c : ChIdx, c ≠ inp.pos_wr_ch → t.chan c = u.chan c) ∧
      ∀ c : ChIdx, (t.chan c).tgt = (u.chan c).tgt ∧ (t.chan c).tv = (u.chan c).tv ∧ (t.chan c).mot = (u.chan c).mot

/-- R159, R27, R140: without a reset, a target, its valid bit and the lines of a channel change only by a MOVE on that
channel, which is then what the action registers show; the valid bit is never cleared. -/
def Obligations.RegistryIsWrittenOnlyByMove : Prop :=
  ∀ s t : State, step s = .next t → s.sampled.rst = false → ∀ c : ChIdx,
    ((s.chan c).tv = true → (t.chan c).tv = true) ∧
    (¬((t.chan c).tgt = (s.chan c).tgt ∧ (t.chan c).tv = (s.chan c).tv ∧ (t.chan c).mot = (s.chan c).mot) →
      t.act = 3 ∧ t.act_ch = c ∧ c = s.sel ∧ (t.chan c).tgt = t.act_tgt ∧ (t.chan c).tv = true ∧
      (t.chan c).mot = steer t.act_tgt (s.chan c).pos)

/-- R61: the byte step reads the position held before the edge, and the position write lands at the same edge. -/
def Obligations.ByteStepReadsBeforeThePositionWrite : Prop :=
  ∀ s t : State, step s = .next t → s.sampled.rst = false →
    (t.act = 2 → t.qpos = (s.chan t.act_ch).pos) ∧
    (t.act = 3 → (t.chan t.act_ch).mot = steer t.act_tgt (s.chan t.act_ch).pos) ∧
    (s.sampled.pos_wr_en = true → s.sampled.pos_wr_ch.toNat < s.cfg.nCh → s.sampled.pos_wr_data.toNat ≤ 999 →
      (t.chan s.sampled.pos_wr_ch).pos = s.sampled.pos_wr_data)

/-- R183: the report is the channel's lowercase letter and three decimal digit bytes, most significant first, whatever
`ZERO_IS_DIGIT` is. -/
def Obligations.ReportSpellsThePosition : Prop :=
  ∀ (c : ChIdx) (p : Level), p.toNat ≤ 999 →
    ∃ d1 d2 d3 : Nat, d1 ≤ 9 ∧ d2 ≤ 9 ∧ d3 ≤ 9 ∧ 100 * d1 + 10 * d2 + d3 = p.toNat ∧
      report c p = [BitVec.ofNat 8 (0x61 + c.toNat), BitVec.ofNat 8 (0x30 + d1), BitVec.ofNat 8 (0x30 + d2),
        BitVec.ofNat 8 (0x30 + d3)]

/-! ### The cycle -/

/-- R173: `in_ready` is `(not rst) and (not S.qv)`; a cycle with `in_valid` and `in_ready` consumes `in_data`; a cycle
with `in_valid = 0` leaves the decoder and the registry unchanged apart from the query handshake and the position
write. -/
def Obligations.ReadyWhenNoResetAndNoPendingQuery : Prop :=
  (∀ s : State, s.outputs.in_ready = (!s.sampled.rst && !s.qv)) ∧
  (∀ s t : State, s.sampled.in_valid = true → s.outputs.in_ready = true → step s = .next t →
    ∃ e, exec (decodeByte s.cfg s.sampled.in_data) s = .next e ∧
      t = { positionWrite s.sampled e with inputs := s.inputs.tail }) ∧
  ∀ s t : State, s.sampled.rst = false → s.sampled.in_valid = false → step s = .next t →
    t.sel_v = s.sel_v ∧ t.sel = s.sel ∧ t.acc = s.acc ∧ t.rd = s.rd ∧ t.chans = (positionWrite s.sampled s).chans ∧
    t.qv = (s.qv && !s.sampled.qry_ready)

/-- R173, R180: when the byte offered in a cycle without reset and without a pending query decodes to a token, the token is
well formed and the step is its meaning, then the position write, then the next cycle's inputs. -/
def Obligations.StepRunsTheDecodedToken : Prop :=
  ∀ (s : State) (inp : Inputs) (rest : List Inputs) (i : Instr),
    s.inputs = inp :: rest → inp.rst = false → inp.in_valid = true → s.qv = false → decode s.cfg [inp.in_data] = .ok i →
    i.wellFormed s.cfg = true ∧
    step s = onNext (exec i s) fun t => .next { positionWrite inp t with inputs := rest }

/-- R173, R177, R179: a cycle without reset that consumes no byte: the query handshake, the position write, the action
registers at NONE, and nothing else. -/
def Obligations.CycleWithoutByteOnlyHandshakesAndWrites : Prop :=
  ∀ (s : State) (inp : Inputs) (rest : List Inputs), s.specified = true →
    s.inputs = inp :: rest → inp.rst = false → (inp.in_valid = false ∨ s.qv = true) →
    step s = .next
      { positionWrite inp { s with qv := s.qv && !inp.qry_ready, act := 0, act_ch := 0, act_tgt := 0 } with inputs := rest }

/-- R209: a cycle with no byte, no handshake and no position write leaves the state unchanged but for the action
registers; past the end of the inputs every cycle is such a cycle (the model's choice: notes/assumptions/4.md). -/
def Obligations.IdleCycleLoadsOnlyNone : Prop :=
  ∀ s : State, s.specified = true →
    (∀ (inp : Inputs) (rest : List Inputs), s.inputs = inp :: rest → inp.rst = false →
      (inp.in_valid = false ∨ s.qv = true) → (s.qv = false ∨ inp.qry_ready = false) → inp.pos_wr_en = false →
      step s = .next { s.noAction with inputs := rest }) ∧
    (s.inputs = [] → step s = .next s.noAction)

/-- R177: the query handshake completes with `qv = 1` and `qry_ready = 1`; without `qry_ready` the buffer stays; without
`qv` the ready input has no effect. -/
def Obligations.QueryHandshakeClearsOnlyThePendingBit : Prop :=
  ∀ (s t : State) (inp : Inputs) (rest : List Inputs), s.inputs = inp :: rest → inp.rst = false → step s = .next t →
    (s.qv = true → inp.qry_ready = true → t.qv = false ∧ t.qch = s.qch ∧ t.qpos = s.qpos) ∧
    (s.qv = true → inp.qry_ready = false → t.qv = true ∧ t.qch = s.qch ∧ t.qpos = s.qpos) ∧
    (s.qv = false → ∀ r, step { s with inputs := { inp with qry_ready := r } :: rest } = .next t)

/-- R174: what stands on the byte port has no effect in a cycle with `in_ready = 0`, and `in_data` none in a cycle with
`in_valid = 0`. -/
def Obligations.UnconsumedByteHasNoEffect : Prop :=
  ∀ (s : State) (inp : Inputs) (rest : List Inputs), s.inputs = inp :: rest →
    (s.inReady = false → ∀ v d, step { s with inputs := { inp with in_valid := v, in_data := d } :: rest } = step s) ∧
    (inp.in_valid = false → ∀ d, step { s with inputs := { inp with in_data := d } :: rest } = step s)

/-- R175: a sender that keeps its offer has the byte it offers consumed, as the same token, in the first cycle in which the
block is ready again. -/
def Obligations.KeptOfferIsConsumedWhenReady : Prop :=
  ∀ s t : State, SenderKeepsOffer s → s.sampled.in_valid = true → s.inReady = false → step s = .next t →
    t.inReady = true → t.fires = true ∧ t.fetched = s.fetched

/-- R178: while a query is pending no byte is consumed, the position port and the motion lines keep working, and after a
consumed query the next byte is consumed two cycles later at the earliest, and then if the reporter accepted at once. -/
def Obligations.PendingQueryHoldsUpTheInput : Prop :=
  (∀ s : State, s.qwait = true → s.outputs.in_ready = false) ∧
  (∀ s t : State, s.qv = true → s.sampled.rst = false → step s = .next t →
    t.act = 0 ∧ t.chans = (positionWrite s.sampled s).chans ∧ t.outputs.mot_up = s.outputs.mot_up ∧
    t.outputs.mot_dn = s.outputs.mot_dn) ∧
  ∀ s t u : State, step s = .next t → t.act = 2 → step t = .next u →
    t.fires = false ∧ (t.sampled.rst = false → t.sampled.qry_ready = true → u.sampled.rst = false → u.inReady = true)

/-- R37: no step changes the parameters, and each step takes one cycle's inputs. -/
def Obligations.StepKeepsTheParameters : Prop :=
  ∀ s t : State, step s = .next t → t.cfg = s.cfg ∧ t.inputs = s.inputs.tail

/-- R180, R206: one step is the spec's `cycle` of the state and the sampled inputs. -/
def Obligations.StepIsTheCycleOfTheSpec : Prop :=
  ∀ s : State, (s.specified = true ∨ s.sampled.rst = true) →
    step s = .next (cycle { s with inputs := s.inputs.tail } s.sampled)

/-! ### Encoding -/

/-- R81 (the opcode table): decoding the byte of a well-formed token gives the token back. -/
def Obligations.DecodeOfEncodeIsTheToken : Prop :=
  ∀ (cfg : Config) (i : Instr), i.wellFormed cfg = true → decode cfg (encode i) = .ok i

/-- R77: every byte decodes to a well-formed token, whose byte it is. -/
def Obligations.EveryByteIsOneToken : Prop :=
  ∀ (cfg : Config) (b : Byte), ∃ i, decode cfg [b] = .ok i ∧ i.wellFormed cfg = true ∧ encode i = [b]

/-- R100: the opcode table and the spec's `classify` agree on every byte. -/
def Obligations.DecodeAgreesWithClassify : Prop :=
  ∀ (cfg : Config) (b : Byte), (decodeByte cfg b).token = classify cfg b

/-- R75: at most one of the three checks matches any byte. -/
def Obligations.ByteClassesAreDisjoint : Prop :=
  ∀ (cfg : Config) (b : Byte),
    ¬(isQueryByte cfg b = true ∧ isSelectByte cfg b = true) ∧ ¬(isQueryByte cfg b = true ∧ isDigitByte cfg b = true) ∧
    ¬(isSelectByte cfg b = true ∧ isDigitByte cfg b = true)

/-- R59, R71: a few words written out bit by bit from spec/opcode_table.json's `encoding` column. -/
def Obligations.WrittenWordsDecode : Prop :=
  ∀ cfg : Config,
    decode cfg [0b01000001#8] = .ok .queryA ∧ decode cfg [0b01100010#8] = .ok .selectB ∧
    decode cfg [0b00110101#8] = .ok .digit5 ∧ decode cfg [0b00100000#8] = .ok (.ignore 0x20)

/-! ### The token level -/

/-- R111: the meaning of every consumed byte is the spec's `feed`, with its action loaded. -/
def Obligations.TokenMeaningIsFeed : Prop :=
  ∀ (s : State) (b : Byte), s.specified = true →
    exec (decodeByte s.cfg b) s = .next ((feed s b).1.loadAction (feed s b).2)

/-- R112: the transition table of the decoder FSM. -/
def Obligations.PhasesFollowTheTransitionTable : Prop :=
  ∀ (s : State) (b : Byte), s.Inv → ∃ t, exec (decodeByte s.cfg b) s = .next t ∧
    (∀ c, classify s.cfg b = .qry c → t.phase = s.phase ∧ t.qv = true ∧ t.act = 2 ∧ t.act_ch = c) ∧
    (∀ c, classify s.cfg b = .sel c → t.phase = .hundreds ∧ t.act = 1 ∧ t.act_ch = c) ∧
    (∀ v, classify s.cfg b = .dig v →
      (s.phase = .nosel → t.phase = .nosel ∧ t.act = 0) ∧
      (s.phase = .hundreds → t.phase = .tens ∧ t.act = 0 ∧ t.acc.toNat = 100 * v) ∧
      (s.phase = .tens → t.phase = .units ∧ t.act = 0 ∧ t.acc.toNat = s.acc.toNat + 10 * v) ∧
      (s.phase = .units → s.acc.toNat + v ≤ 999 →
        t.phase = .units ∧ t.act = 3 ∧ t.act_ch = s.sel ∧ t.act_tgt = t.acc ∧ t.acc.toNat = s.acc.toNat + v) ∧
      (s.phase = .units → 999 < s.acc.toNat + v → t.phase = .units ∧ t.act = 0 ∧ t.acc = s.acc)) ∧
    (classify s.cfg b = .ign → t.phase = s.phase ∧ t.act = 0)

/-- R116: a select discards whatever was entered before it; with fewer than three digits in between no MOVE is left in
the registry. -/
def Obligations.SelectDiscardsThePartialEntry : Prop :=
  ∀ (s : State) (x y : ChIdx) (w : List Byte), s.specified = true → x.toNat < s.cfg.nCh → y.toNat < s.cfg.nCh →
    ∃ t u, consume (selectByte x :: (w ++ [selectByte y])) s = .next t ∧ consume [selectByte y] s = .next u ∧
      (t.sel_v = true ∧ t.sel = y ∧ t.acc = 0 ∧ t.rd = 2) ∧ (u.sel_v = true ∧ u.sel = y ∧ u.acc = 0 ∧ u.rd = 2) ∧
      ((w.filter (isDigitByte s.cfg)).length < 3 → t.chans = s.chans)

/-- R115: a query between any token sequences leaves the decoder and the registry as they are without it. -/
def Obligations.QueryDoesNotDisturbTheDecoder : Prop :=
  ∀ (s : State) (c : ChIdx) (X Y : List Byte), s.specified = true → c.toNat < s.cfg.nCh →
    ∃ t u, consume (X ++ queryByte c :: Y) s = .next t ∧ consume (X ++ Y) s = .next u ∧ SameDecoderAndRegistry t u

/-- R53, R78, R79: a select and three digits, with query and ignored bytes anywhere between, move the selected channel
to `100*d1 + 10*d2 + d3` and no other. -/
def Obligations.ThreeDigitsMakeTheTarget : Prop :=
  ∀ (s : State) (c : ChIdx) (d1 d2 d3 : Nat) (w1 w2 w3 : List Byte), s.specified = true →
    (PseudoCommand.move c d1 d2 d3).legal s.cfg = true → (∀ b ∈ w1 ++ w2 ++ w3, isFiller s.cfg b = true) →
    ∃ t, consume (selectByte c :: w1 ++ digitByte d1 :: w2 ++ digitByte d2 :: w3 ++ [digitByte d3]) s = .next t ∧
      t.acc.toNat = 100 * d1 + 10 * d2 + d3 ∧ t.acc.toNat ≤ 999 ∧ t.sel_v = true ∧ t.sel = c ∧ t.rd = 0 ∧
      t.act = 3 ∧ t.act_ch = c ∧ t.act_tgt = t.acc ∧
      t.chan c = { pos := (s.chan c).pos, tgt := t.acc, tv := true, mot := steer t.acc (s.chan c).pos } ∧
      ∀ c', c' ≠ c → t.chan c' = s.chan c'

/-- R236, R107: digits without a new select are added to the last target as units digits, as long as the sum stays
within 999, and move the same channel. -/
def Obligations.CarryOverAddsUnits : Prop :=
  ∀ (s : State) (ds : List Nat), s.specified = true → s.sel_v = true → s.rd = 0 → ds ≠ [] →
    (∀ d ∈ ds, legalDigit s.cfg d = true) → s.acc.toNat + ds.sum ≤ 999 →
    ∃ t, consume (ds.map digitByte) s = .next t ∧ t.acc.toNat = s.acc.toNat + ds.sum ∧ t.rd = 0 ∧ t.sel = s.sel ∧
      t.act = 3 ∧ t.act_ch = s.sel ∧ t.act_tgt = t.acc ∧
      t.chan s.sel = { pos := (s.chan s.sel).pos, tgt := t.acc, tv := true, mot := steer t.acc (s.chan s.sel).pos } ∧
      ∀ c', c' ≠ s.sel → t.chan c' = s.chan c'

/-- R135: two queries of a channel with any tokens and no position write between them report the same position. -/
def Obligations.QueryIsIdempotent : Prop :=
  ∀ (s : State) (c : ChIdx) (w : List Byte), s.specified = true → c.toNat < s.cfg.nCh →
    ∃ t u, consume [queryByte c] s = .next t ∧ consume (queryByte c :: (w ++ [queryByte c])) s = .next u ∧
      t.qpos = (s.chan c).pos ∧ u.qpos = t.qpos ∧ u.qch = c ∧ t.qch = c

/-! ### Runs and invariants -/

/-- R33: the reset state meets the invariants, for every value of the parameters. -/
def Obligations.ResetMeetsTheInvariants : Prop :=
  ∀ (cfg : Config) (inputs : List Inputs), (State.resetOf cfg inputs).Inv

/-- R33: every step keeps the invariants. -/
def Obligations.StepKeepsTheInvariants : Prop :=
  ∀ s t : State, s.Inv → step s = .next t → t.Inv

/-- R77, R200: from a state that meets the invariants no input stops the block. -/
def Obligations.NoInputStopsTheBlock : Prop :=
  ∀ s : State, s.Inv → SafeOutcome (step s)

/-- R33, R186: every state reached from reset by any number of cycles, under any inputs, meets the invariants, and the
run never stops. -/
def Obligations.EveryRunFromResetMeetsTheInvariants : Prop :=
  ∀ (cfg : Config) (inputs : List Inputs) (n : Nat),
    ∃ t : State, Sys2Proof.core.run n (State.resetOf cfg inputs) = .next t ∧ t.Inv

/-- R114: without a digit, a select or a reset the partial entry stays for any number of cycles. -/
def Obligations.PartialEntryHasNoTimeLimit : Prop :=
  ∀ (n : Nat) (s t : State),
    (∀ inp ∈ s.inputs.take n, inp.rst = false ∧ (inp.in_valid = false ∨ isFiller s.cfg inp.in_data = true)) →
    Sys2Proof.core.run n s = .next t → t.sel_v = s.sel_v ∧ t.sel = s.sel ∧ t.acc = s.acc ∧ t.rd = s.rd

/-- R177, R185: a pending query waits unchanged, with the decoder at rest, until the reporter accepts, and is cleared by
the cycle in which it does. -/
def Obligations.PendingQueryWaitsForTheReporter : Prop :=
  ∀ (k : Nat) (s : State) (inp : Inputs), s.specified = true → s.qv = true →
    (∀ j ∈ s.inputs.take k, j.rst = false ∧ j.qry_ready = false) → s.inputs[k]? = some inp → inp.rst = false →
    inp.qry_ready = true →
    ∃ t u : State, Sys2Proof.core.run k s = .next t ∧ Sys2Proof.core.run (k + 1) s = .next u ∧
      t.qv = true ∧ t.qch = s.qch ∧ t.qpos = s.qpos ∧ u.qv = false ∧ u.qch = s.qch ∧ u.qpos = s.qpos ∧
      u.sel_v = s.sel_v ∧ u.sel = s.sel ∧ u.acc = s.acc ∧ u.rd = s.rd

/-- R60, R62: a stream delivered byte by byte, each query accepted in the cycle after its consumption, leaves the
decoder, the registry and the query snapshot as the token level does. -/
def Obligations.RunOfAStreamIsTheTokenLevel : Prop :=
  ∀ (s : State) (w : List Byte) (rest : List Inputs), s.specified = true → s.qv = false →
    s.inputs = schedule s.cfg w ++ rest →
    ∃ t u : State, consume w s = .next t ∧ Sys2Proof.core.run (schedule s.cfg w).length s = .next u ∧
      SameDecoderAndRegistry t u ∧ t.qch = u.qch ∧ t.qpos = u.qpos ∧ u.qv = false ∧ u.inputs = rest

/-- R26, R27, R110, R140: no rule reads a target, a valid bit or the action registers: states that agree on everything
else step alike and show the same action. -/
def Obligations.UnreadStateInfluencesNothing : Prop :=
  ∀ s u t : State, SameButUnread s u → step s = .next t →
    ∃ v, step u = .next v ∧ SameButUnread t v ∧ t.act = v.act ∧ t.act_ch = v.act_ch ∧ t.act_tgt = v.act_tgt
end

