-- ==== Sys2Proof/Laws/State.lean ====
section
/-! SUPPORT. One lemma per field per named update of the state record, so that no later proof unfolds an update. -/

namespace Sys2Proof.Machine

/-! ### `loadAction` -/

@[simp] theorem State.loadAction_cfg (s : State) (a : Action) : (s.loadAction a).cfg = s.cfg := rfl
@[simp] theorem State.loadAction_sel_v (s : State) (a : Action) : (s.loadAction a).sel_v = s.sel_v := rfl
@[simp] theorem State.loadAction_sel (s : State) (a : Action) : (s.loadAction a).sel = s.sel := rfl
@[simp] theorem State.loadAction_acc (s : State) (a : Action) : (s.loadAction a).acc = s.acc := rfl
@[simp] theorem State.loadAction_rd (s : State) (a : Action) : (s.loadAction a).rd = s.rd := rfl
@[simp] theorem State.loadAction_chans (s : State) (a : Action) : (s.loadAction a).chans = s.chans := rfl
@[simp] theorem State.loadAction_qv (s : State) (a : Action) : (s.loadAction a).qv = s.qv := rfl
@[simp] theorem State.loadAction_qch (s : State) (a : Action) : (s.loadAction a).qch = s.qch := rfl
@[simp] theorem State.loadAction_qpos (s : State) (a : Action) : (s.loadAction a).qpos = s.qpos := rfl
@[simp] theorem State.loadAction_act (s : State) (a : Action) : (s.loadAction a).act = a.code := rfl
@[simp] theorem State.loadAction_act_ch (s : State) (a : Action) : (s.loadAction a).act_ch = a.channel := rfl
@[simp] theorem State.loadAction_act_tgt (s : State) (a : Action) : (s.loadAction a).act_tgt = a.target := rfl
@[simp] theorem State.loadAction_inputs (s : State) (a : Action) : (s.loadAction a).inputs = s.inputs := rfl

/-! ### `setChan` -/

@[simp] theorem State.setChan_cfg (s : State) (c : ChIdx) (ch : Channel) : (s.setChan c ch).cfg = s.cfg := rfl
@[simp] theorem State.setChan_sel_v (s : State) (c : ChIdx) (ch : Channel) : (s.setChan c ch).sel_v = s.sel_v := rfl
@[simp] theorem State.setChan_sel (s : State) (c : ChIdx) (ch : Channel) : (s.setChan c ch).sel = s.sel := rfl
@[simp] theorem State.setChan_acc (s : State) (c : ChIdx) (ch : Channel) : (s.setChan c ch).acc = s.acc := rfl
@[simp] theorem State.setChan_rd (s : State) (c : ChIdx) (ch : Channel) : (s.setChan c ch).rd = s.rd := rfl
@[simp] theorem State.setChan_chans (s : State) (c : ChIdx) (ch : Channel) : (s.setChan c ch).chans = s.chans.set c.toNat ch := rfl
@[simp] theorem State.setChan_qv (s : State) (c : ChIdx) (ch : Channel) : (s.setChan c ch).qv = s.qv := rfl
@[simp] theorem State.setChan_qch (s : State) (c : ChIdx) (ch : Channel) : (s.setChan c ch).qch = s.qch := rfl
@[simp] theorem State.setChan_qpos (s : State) (c : ChIdx) (ch : Channel) : (s.setChan c ch).qpos = s.qpos := rfl
@[simp] theorem State.setChan_act (s : State) (c : ChIdx) (ch : Channel) : (s.setChan c ch).act = s.act := rfl
@[simp] theorem State.setChan_act_ch (s : State) (c : ChIdx) (ch : Channel) : (s.setChan c ch).act_ch = s.act_ch := rfl
@[simp] theorem State.setChan_act_tgt (s : State) (c : ChIdx) (ch : Channel) : (s.setChan c ch).act_tgt = s.act_tgt := rfl
@[simp] theorem State.setChan_inputs (s : State) (c : ChIdx) (ch : Channel) : (s.setChan c ch).inputs = s.inputs := rfl

/-! ### `setTarget` -/

@[simp] theorem setTarget_cfg (c : ChIdx) (t : Level) (s : State) : (setTarget c t s).cfg = s.cfg := rfl
@[simp] theorem setTarget_sel_v (c : ChIdx) (t : Level) (s : State) : (setTarget c t s).sel_v = s.sel_v := rfl
@[simp] theorem setTarget_sel (c : ChIdx) (t : Level) (s : State) : (setTarget c t s).sel = s.sel := rfl
@[simp] theorem setTarget_acc (c : ChIdx) (t : Level) (s : State) : (setTarget c t s).acc = s.acc := rfl
@[simp] theorem setTarget_rd (c : ChIdx) (t : Level) (s : State) : (setTarget c t s).rd = s.rd := rfl
@[simp] theorem setTarget_chans (c : ChIdx) (t : Level) (s : State) : (setTarget c t s).chans = s.chans.set c.toNat { s.chan c with tgt := t, tv := true, mot := steer t (s.chan c).pos } := rfl
@[simp] theorem setTarget_qv (c : ChIdx) (t : Level) (s : State) : (setTarget c t s).qv = s.qv := rfl
@[simp] theorem setTarget_qch (c : ChIdx) (t : Level) (s : State) : (setTarget c t s).qch = s.qch := rfl
@[simp] theorem setTarget_qpos (c : ChIdx) (t : Level) (s : State) : (setTarget c t s).qpos = s.qpos := rfl
@[simp] theorem setTarget_act (c : ChIdx) (t : Level) (s : State) : (setTarget c t s).act = s.act := rfl
@[simp] theorem setTarget_act_ch (c : ChIdx) (t : Level) (s : State) : (setTarget c t s).act_ch = s.act_ch := rfl
@[simp] theorem setTarget_act_tgt (c : ChIdx) (t : Level) (s : State) : (setTarget c t s).act_tgt = s.act_tgt := rfl
@[simp] theorem setTarget_inputs (c : ChIdx) (t : Level) (s : State) : (setTarget c t s).inputs = s.inputs := rfl

/-! ### `handshake` -/

@[simp] theorem handshake_cfg (inp : Inputs) (s : State) : (handshake inp s).cfg = s.cfg := rfl
@[simp] theorem handshake_sel_v (inp : Inputs) (s : State) : (handshake inp s).sel_v = s.sel_v := rfl
@[simp] theorem handshake_sel (inp : Inputs) (s : State) : (handshake inp s).sel = s.sel := rfl
@[simp] theorem handshake_acc (inp : Inputs) (s : State) : (handshake inp s).acc = s.acc := rfl
@[simp] theorem handshake_rd (inp : Inputs) (s : State) : (handshake inp s).rd = s.rd := rfl
@[simp] theorem handshake_chans (inp : Inputs) (s : State) : (handshake inp s).chans = s.chans := rfl
@[simp] theorem handshake_qv (inp : Inputs) (s : State) : (handshake inp s).qv = (s.qv && !inp.qry_ready) := rfl
@[simp] theorem handshake_qch (inp : Inputs) (s : State) : (handshake inp s).qch = s.qch := rfl
@[simp] theorem handshake_qpos (inp : Inputs) (s : State) : (handshake inp s).qpos = s.qpos := rfl
@[simp] theorem handshake_act (inp : Inputs) (s : State) : (handshake inp s).act = s.act := rfl
@[simp] theorem handshake_act_ch (inp : Inputs) (s : State) : (handshake inp s).act_ch = s.act_ch := rfl
@[simp] theorem handshake_act_tgt (inp : Inputs) (s : State) : (handshake inp s).act_tgt = s.act_tgt := rfl
@[simp] theorem handshake_inputs (inp : Inputs) (s : State) : (handshake inp s).inputs = s.inputs := rfl

/-! ### `waitCycle` -/

@[simp] theorem waitCycle_cfg (inp : Inputs) (s : State) : (waitCycle inp s).cfg = s.cfg := rfl
@[simp] theorem waitCycle_sel_v (inp : Inputs) (s : State) : (waitCycle inp s).sel_v = s.sel_v := rfl
@[simp] theorem waitCycle_sel (inp : Inputs) (s : State) : (waitCycle inp s).sel = s.sel := rfl
@[simp] theorem waitCycle_acc (inp : Inputs) (s : State) : (waitCycle inp s).acc = s.acc := rfl
@[simp] theorem waitCycle_rd (inp : Inputs) (s : State) : (waitCycle inp s).rd = s.rd := rfl
@[simp] theorem waitCycle_chans (inp : Inputs) (s : State) : (waitCycle inp s).chans = s.chans := rfl
@[simp] theorem waitCycle_qv (inp : Inputs) (s : State) : (waitCycle inp s).qv = (s.qv && !inp.qry_ready) := rfl
@[simp] theorem waitCycle_qch (inp : Inputs) (s : State) : (waitCycle inp s).qch = s.qch := rfl
@[simp] theorem waitCycle_qpos (inp : Inputs) (s : State) : (waitCycle inp s).qpos = s.qpos := rfl
@[simp] theorem waitCycle_act (inp : Inputs) (s : State) : (waitCycle inp s).act = 0 := rfl
@[simp] theorem waitCycle_act_ch (inp : Inputs) (s : State) : (waitCycle inp s).act_ch = 0 := rfl
@[simp] theorem waitCycle_act_tgt (inp : Inputs) (s : State) : (waitCycle inp s).act_tgt = 0 := rfl
@[simp] theorem waitCycle_inputs (inp : Inputs) (s : State) : (waitCycle inp s).inputs = s.inputs := rfl

/-! ### `positionWrite`, which writes only the registry (R137) -/

@[simp] theorem positionWrite_cfg (inp : Inputs) (s : State) : (positionWrite inp s).cfg = s.cfg := by
  unfold positionWrite; split <;> rfl
@[simp] theorem positionWrite_sel_v (inp : Inputs) (s : State) : (positionWrite inp s).sel_v = s.sel_v := by
  unfold positionWrite; split <;> rfl
@[simp] theorem positionWrite_sel (inp : Inputs) (s : State) : (positionWrite inp s).sel = s.sel := by
  unfold positionWrite; split <;> rfl
@[simp] theorem positionWrite_acc (inp : Inputs) (s : State) : (positionWrite inp s).acc = s.acc := by
  unfold positionWrite; split <;> rfl
@[simp] theorem positionWrite_rd (inp : Inputs) (s : State) : (positionWrite inp s).rd = s.rd := by
  unfold positionWrite; split <;> rfl
@[simp] theorem positionWrite_qv (inp : Inputs) (s : State) : (positionWrite inp s).qv = s.qv := by
  unfold positionWrite; split <;> rfl
@[simp] theorem positionWrite_qch (inp : Inputs) (s : State) : (positionWrite inp s).qch = s.qch := by
  unfold positionWrite; split <;> rfl
@[simp] theorem positionWrite_qpos (inp : Inputs) (s : State) : (positionWrite inp s).qpos = s.qpos := by
  unfold positionWrite; split <;> rfl
@[simp] theorem positionWrite_act (inp : Inputs) (s : State) : (positionWrite inp s).act = s.act := by
  unfold positionWrite; split <;> rfl
@[simp] theorem positionWrite_act_ch (inp : Inputs) (s : State) : (positionWrite inp s).act_ch = s.act_ch := by
  unfold positionWrite; split <;> rfl
@[simp] theorem positionWrite_act_tgt (inp : Inputs) (s : State) : (positionWrite inp s).act_tgt = s.act_tgt := by
  unfold positionWrite; split <;> rfl
@[simp] theorem positionWrite_inputs (inp : Inputs) (s : State) : (positionWrite inp s).inputs = s.inputs := by
  unfold positionWrite; split <;> rfl

/-! ### `endCycle` -/

@[simp] theorem endCycle_cfg (inp : Inputs) (s : State) : (endCycle inp s).cfg = s.cfg := positionWrite_cfg inp s
@[simp] theorem endCycle_sel_v (inp : Inputs) (s : State) : (endCycle inp s).sel_v = s.sel_v := positionWrite_sel_v inp s
@[simp] theorem endCycle_sel (inp : Inputs) (s : State) : (endCycle inp s).sel = s.sel := positionWrite_sel inp s
@[simp] theorem endCycle_acc (inp : Inputs) (s : State) : (endCycle inp s).acc = s.acc := positionWrite_acc inp s
@[simp] theorem endCycle_rd (inp : Inputs) (s : State) : (endCycle inp s).rd = s.rd := positionWrite_rd inp s
@[simp] theorem endCycle_chans (inp : Inputs) (s : State) : (endCycle inp s).chans = (positionWrite inp s).chans := rfl
@[simp] theorem endCycle_qv (inp : Inputs) (s : State) : (endCycle inp s).qv = s.qv := positionWrite_qv inp s
@[simp] theorem endCycle_qch (inp : Inputs) (s : State) : (endCycle inp s).qch = s.qch := positionWrite_qch inp s
@[simp] theorem endCycle_qpos (inp : Inputs) (s : State) : (endCycle inp s).qpos = s.qpos := positionWrite_qpos inp s
@[simp] theorem endCycle_act (inp : Inputs) (s : State) : (endCycle inp s).act = s.act := positionWrite_act inp s
@[simp] theorem endCycle_act_ch (inp : Inputs) (s : State) : (endCycle inp s).act_ch = s.act_ch := positionWrite_act_ch inp s
@[simp] theorem endCycle_act_tgt (inp : Inputs) (s : State) : (endCycle inp s).act_tgt = s.act_tgt := positionWrite_act_tgt inp s
@[simp] theorem endCycle_inputs (inp : Inputs) (s : State) : (endCycle inp s).inputs = s.inputs.tail := rfl

/-! ### `resetOf` (R32) -/

@[simp] theorem State.resetOf_cfg (cfg : Config) (inputs : List Inputs) : (State.resetOf cfg inputs).cfg = cfg := rfl
@[simp] theorem State.resetOf_sel_v (cfg : Config) (inputs : List Inputs) : (State.resetOf cfg inputs).sel_v = false := rfl
@[simp] theorem State.resetOf_sel (cfg : Config) (inputs : List Inputs) : (State.resetOf cfg inputs).sel = 0 := rfl
@[simp] theorem State.resetOf_acc (cfg : Config) (inputs : List Inputs) : (State.resetOf cfg inputs).acc = 0 := rfl
@[simp] theorem State.resetOf_rd (cfg : Config) (inputs : List Inputs) : (State.resetOf cfg inputs).rd = 2 := rfl
@[simp] theorem State.resetOf_chans (cfg : Config) (inputs : List Inputs) : (State.resetOf cfg inputs).chans = List.replicate cfg.nCh Channel.reset := rfl
@[simp] theorem State.resetOf_qv (cfg : Config) (inputs : List Inputs) : (State.resetOf cfg inputs).qv = false := rfl
@[simp] theorem State.resetOf_qch (cfg : Config) (inputs : List Inputs) : (State.resetOf cfg inputs).qch = 0 := rfl
@[simp] theorem State.resetOf_qpos (cfg : Config) (inputs : List Inputs) : (State.resetOf cfg inputs).qpos = 0 := rfl
@[simp] theorem State.resetOf_act (cfg : Config) (inputs : List Inputs) : (State.resetOf cfg inputs).act = 0 := rfl
@[simp] theorem State.resetOf_act_ch (cfg : Config) (inputs : List Inputs) : (State.resetOf cfg inputs).act_ch = 0 := rfl
@[simp] theorem State.resetOf_act_tgt (cfg : Config) (inputs : List Inputs) : (State.resetOf cfg inputs).act_tgt = 0 := rfl
@[simp] theorem State.resetOf_inputs (cfg : Config) (inputs : List Inputs) : (State.resetOf cfg inputs).inputs = inputs := rfl

end Sys2Proof.Machine
end

