-- ==== Sys2Proof/Laws/Ops.lean ====
section
/-! SUPPORT. What each shared operation can do, said once: the registry accessors, the position write, and how a token
retires. -/

namespace Sys2Proof.Machine

/-! ### Registry reads after writes -/

theorem ChIdx.toNat_ne {c d : ChIdx} (h : d ≠ c) : c.toNat ≠ d.toNat := fun e => h (BitVec.eq_of_toNat_eq e.symm)

/-- A read after a write to the same channel gives the entry written. -/
theorem State.setChan_chan_same (s : State) (c : ChIdx) (ch : Channel) (h : c.toNat < s.chans.length) :
    (s.setChan c ch).chan c = ch := by
  simp [State.chan, List.getD, h]

/-- A write leaves every other channel alone (R155). -/
theorem State.setChan_chan_other (s : State) (c d : ChIdx) (ch : Channel) (h : d ≠ c) :
    (s.setChan c ch).chan d = s.chan d := by
  simp [State.chan, List.getD, ChIdx.toNat_ne h]

/-- The read of a channel depends on the registry only. -/
theorem State.chan_congr {s u : State} (h : s.chans = u.chans) (c : ChIdx) : s.chan c = u.chan c := by
  simp [State.chan, h]

/-- An entry of the registry is what a read of some channel gives. -/
theorem State.chan_mem (s : State) (c : ChIdx) (h : c.toNat < s.chans.length) : s.chan c ∈ s.chans := by
  simp [State.chan, List.getD, h]

theorem setTarget_chan_same (c : ChIdx) (t : Level) (s : State) (h : c.toNat < s.chans.length) :
    (setTarget c t s).chan c = { s.chan c with tgt := t, tv := true, mot := steer t (s.chan c).pos } :=
  State.setChan_chan_same s c _ h

theorem setTarget_chan_other (c d : ChIdx) (t : Level) (s : State) (h : d ≠ c) :
    (setTarget c t s).chan d = s.chan d :=
  State.setChan_chan_other s c d _ h

/-- `steer` gives one of the three legal line states (R150, R154). -/
theorem steer_cases (t p : Level) : steer t p = linesDown ∨ steer t p = linesUp ∨ steer t p = linesStop := by
  unfold steer; split
  · exact .inl rfl
  · split
    · exact .inr (.inl rfl)
    · exact .inr (.inr rfl)

theorem steer_ne_both (t p : Level) : steer t p ≠ 0b11 := by
  rcases steer_cases t p with h | h | h <;> rw [h] <;> decide

/-! ### The position write -/

/-- The write lands (R136). -/
def Inputs.writes (inp : Inputs) (cfg : Config) : Prop :=
  inp.pos_wr_en = true ∧ inp.pos_wr_ch.toNat < cfg.nCh ∧ inp.pos_wr_data.toNat ≤ posMax

theorem positionWrite_of_writes {inp : Inputs} {s : State} (h : inp.writes s.cfg) :
    positionWrite inp s = s.setChan inp.pos_wr_ch { s.chan inp.pos_wr_ch with pos := inp.pos_wr_data } := by
  unfold positionWrite; exact if_pos h

theorem positionWrite_of_not_writes {inp : Inputs} {s : State} (h : ¬ inp.writes s.cfg) : positionWrite inp s = s := by
  unfold positionWrite; exact if_neg h

@[simp] theorem positionWrite_length (inp : Inputs) (s : State) : (positionWrite inp s).chans.length = s.chans.length := by
  unfold positionWrite; split <;> simp

/-- A position write changes the registry only (R137). -/
theorem positionWrite_eq (inp : Inputs) (s : State) :
    positionWrite inp s = { s with chans := (positionWrite inp s).chans } := by
  unfold positionWrite; split <;> rfl

/-- What a position write leaves in the registry depends on the parameters and the registry only. -/
theorem positionWrite_chans_congr {inp : Inputs} {s u : State} (hc : s.cfg = u.cfg) (h : s.chans = u.chans) :
    (positionWrite inp s).chans = (positionWrite inp u).chans := by
  by_cases hw : inp.writes s.cfg
  · rw [positionWrite_of_writes hw, positionWrite_of_writes (hc ▸ hw), State.setChan_chans, State.setChan_chans,
      State.chan_congr h, h]
  · rw [positionWrite_of_not_writes hw, positionWrite_of_not_writes (hc ▸ hw), h]

/-- A position write looks at its own three ports only. -/
theorem positionWrite_ports_congr {inp inp' : Inputs} (s : State) (he : inp.pos_wr_en = inp'.pos_wr_en)
    (hc : inp.pos_wr_ch = inp'.pos_wr_ch) (hd : inp.pos_wr_data = inp'.pos_wr_data) :
    positionWrite inp s = positionWrite inp' s := by
  unfold positionWrite; rw [he, hc, hd]

/-- A position write leaves the target, the valid bit and the lines of every channel alone (R137). -/
theorem positionWrite_rest (inp : Inputs) (s : State) (c : ChIdx) :
    ((positionWrite inp s).chan c).tgt = (s.chan c).tgt ∧ ((positionWrite inp s).chan c).tv = (s.chan c).tv ∧
      ((positionWrite inp s).chan c).mot = (s.chan c).mot := by
  unfold positionWrite; split
  · by_cases hc : c = inp.pos_wr_ch
    · subst hc
      by_cases hl : inp.pos_wr_ch.toNat < s.chans.length
      · rw [State.setChan_chan_same _ _ _ hl]; exact ⟨rfl, rfl, rfl⟩
      · have hn : s.chans.length ≤ inp.pos_wr_ch.toNat := Nat.le_of_not_lt hl
        simp [State.chan, List.getD, List.set_eq_of_length_le hn]
    · rw [State.setChan_chan_other _ _ _ _ hc]; exact ⟨rfl, rfl, rfl⟩
  · exact ⟨rfl, rfl, rfl⟩

/-- A registry entry after a position write is an old one, or an old one with a new legal position. -/
theorem positionWrite_mem {inp : Inputs} {s : State} {ch : Channel} (hl : s.chans.length = s.cfg.nCh)
    (h : ch ∈ (positionWrite inp s).chans) :
    ∃ old ∈ s.chans, ch = old ∨ (inp.pos_wr_data.toNat ≤ posMax ∧ ch = { old with pos := inp.pos_wr_data }) := by
  by_cases hw : inp.writes s.cfg
  · rw [positionWrite_of_writes hw, State.setChan_chans] at h
    have hlt : inp.pos_wr_ch.toNat < s.chans.length := hl ▸ hw.2.1
    rcases List.mem_or_eq_of_mem_set h with h | h
    · exact ⟨ch, h, .inl rfl⟩
    · exact ⟨_, State.chan_mem s _ hlt, .inr ⟨hw.2.2, h⟩⟩
  · rw [positionWrite_of_not_writes hw] at h
    exact ⟨ch, h, .inl rfl⟩

/-! ### Retiring a token -/

theorem guarded_next_iff {s t : State} {f : State → State} :
    guarded s f = .next t ↔ s.specified = true ∧ t = f s := by
  unfold guarded
  split
  · rename_i h; exact ⟨fun e => ⟨h, (Host.Outcome.next.inj e).symm⟩, fun e => congrArg _ e.2.symm⟩
  · rename_i h; exact ⟨fun e => (nomatch e), fun e => absurd e.1 h⟩

theorem retire_next_iff {s t : State} {f : State → State} {a : Action} :
    retire s f a = .next t ↔ s.specified = true ∧ t = (f s).loadAction a := guarded_next_iff

theorem onNext_next_iff {o : Host.Outcome State Fault Refusal} {f : State → Host.Outcome State Fault Refusal} {t : State} :
    onNext o f = .next t ↔ ∃ s, o = .next s ∧ f s = .next t := by
  cases o <;> simp [onNext]

theorem ignored_next_iff {s t : State} : ignored s = .next t ↔ s.specified = true ∧ t = s.loadAction .none :=
  retire_next_iff

/-- What it takes to be a state the block is specified from (D28). -/
theorem State.specified_iff (s : State) :
    s.specified = true ↔
      s.chans.length = s.cfg.nCh ∧ s.acc.toNat ≤ 999 ∧ s.rd ≠ 3 ∧ s.sel.toNat < s.cfg.nCh ∧
        ∀ ch ∈ s.chans, ch.pos.toNat ≤ 999 ∧ ch.mot ≠ 0b11 := by
  simp only [State.specified, Channel.specified, Bool.and_eq_true, decide_eq_true_eq, List.all_eq_true, and_assoc, posMax]

theorem seven_le_nCh (cfg : Config) : 7 ≤ cfg.nCh := by
  unfold Config.nCh; cases cfg.n_ch <;> decide

theorem nCh_le_eight (cfg : Config) : cfg.nCh ≤ 8 := by
  unfold Config.nCh; cases cfg.n_ch <;> decide

theorem nCh_eight {cfg : Config} (h : cfg.n_ch = .eight) : cfg.nCh = 8 := by
  simp [Config.nCh, h, ChannelCount.toNat]

end Sys2Proof.Machine
end

