-- ==== Sys2Proof/Laws/Encoding.lean ====
section
/-! SUPPORT. What the decoder's table look-up can find, said once. -/

namespace Sys2Proof

open Machine

/-- A row found is the encoder's: the byte looked up is the byte of the token found. -/
theorem rowOf_encode : ∀ b : Byte, ∀ i, rowOf b tokenRows = some i → encodeByte i = b := by
  have : ∀ b : Byte, (rowOf b tokenRows).all (fun i => decide (encodeByte i = b)) = true := by decide +kernel
  intro b i h
  have hb := this b
  rw [h] at hb
  simpa using hb

end Sys2Proof
end

