-- ==== Sys2Proof/Laws/Exec.lean ====
section
/-! SUPPORT. What a token can do, said once over all tokens: the meaning as a function of class and field, and one
inversion lemma. -/

namespace Sys2Proof.Machine

/-- The shared operation a token's meaning is, by class and field. -/
def meaningOf (tok : Token) (s : State) : Host.Outcome State Fault Refusal :=
  match tok with
  | .qry c => query c s
  | .sel c => select c s
  | .dig v => digit v s
  | .ign => ignored s

/-- The meaning of a token that its block has. -/
theorem exec_of_wellFormed {i : Instr} {s : State} (h : i.wellFormed s.cfg = true) : exec i s = meaningOf i.token s := by
  cases i <;> simp_all [exec, meaningOf, Instr.token, Instr.wellFormed, whenPresent, execQueryA, execQueryB, execQueryC,
    execQueryD, execQueryE, execQueryF, execQueryG, execQueryH, execSelectA, execSelectB, execSelectC, execSelectD,
    execSelectE, execSelectF, execSelectG, execSelectH, execDigit0, execDigit1, execDigit2, execDigit3, execDigit4,
    execDigit5, execDigit6, execDigit7, execDigit8, execDigit9, execIgnore]

/-- The meaning of a token whose row's condition fails (R81). -/
theorem exec_of_not_wellFormed {i : Instr} {s : State} (h : i.wellFormed s.cfg = false) : exec i s = ignored s := by
  cases i <;> simp_all [exec, Instr.wellFormed, whenPresent, execQueryH, execSelectH, execDigit0, execIgnore]

/-- The channel of a well-formed query or select token is one of the block's (R52). -/
theorem channel_lt_of_wellFormed {i : Instr} {cfg : Config} (h : i.wellFormed cfg = true) {c : ChIdx}
    (ht : i.token = .qry c ∨ i.token = .sel c) : c.toNat < cfg.nCh := by
  have h7 := seven_le_nCh cfg
  have h8 : cfg.n_ch = .eight → cfg.nCh = 8 := nCh_eight
  cases i <;> simp [Instr.token, Instr.wellFormed] at ht h <;> subst ht <;> first | (have := h8 h; simp [this]) | (simp; omega)

/-- The value of a digit token is at most 9 (R74). -/
theorem digit_le_nine {i : Instr} {v : Nat} (ht : i.token = .dig v) : v ≤ 9 := by
  cases i <;> simp [Instr.token] at ht <;> omega

/-- The state after an accepted digit that is not the last (R105, R106). -/
def enterDigit (v : Nat) (s : State) : State := { s with acc := BitVec.ofNat 10 (digitSum v s), rd := s.rd - 1 }

/-- The state after a completing digit (R107). -/
def completeMove (v : Nat) (s : State) : State :=
  setTarget s.sel (completedTarget v s) { s with acc := completedTarget v s }

theorem query_next_iff {c : ChIdx} {s t : State} :
    query c s = .next t ↔ s.specified = true ∧
      t = ({ s with qv := true, qch := c, qpos := (s.chan c).pos } : State).loadAction (.query c) := retire_next_iff

theorem select_next_iff {c : ChIdx} {s t : State} :
    select c s = .next t ↔ s.specified = true ∧
      t = ({ s with sel_v := true, sel := c, acc := 0, rd := 2 } : State).loadAction (.select c) := retire_next_iff

/-- Every case of a digit (R104 to R108). -/
theorem digit_next {v : Nat} {s t : State} (h : digit v s = .next t) :
    s.specified = true ∧
    ((t = s.loadAction .none ∧ (s.sel_v = false ∨ 999 < digitSum v s)) ∨
      (s.sel_v = true ∧ digitSum v s ≤ 999 ∧ s.rd ≠ 0 ∧ t = (enterDigit v s).loadAction .none) ∨
      (s.sel_v = true ∧ s.rd = 0 ∧ s.acc.toNat + v ≤ 999 ∧
        t = (completeMove v s).loadAction (.move s.sel (completedTarget v s)))) := by
  unfold digit at h
  split at h
  · rename_i h0; rw [ignored_next_iff] at h; exact ⟨h.1, .inl ⟨h.2, .inl h0⟩⟩
  rename_i h0
  replace h0 : s.sel_v = true := by simpa using h0
  split at h
  · rename_i h1; rw [ignored_next_iff] at h
    exact ⟨h.1, .inl ⟨h.2, .inr (by simpa [passesMax, posMax] using h1)⟩⟩
  rename_i h1
  replace h1 : digitSum v s ≤ 999 := by simpa [passesMax, posMax] using h1
  split at h
  · rename_i h2; rw [digitHundreds, retire_next_iff] at h
    refine ⟨h.1, .inr (.inl ⟨h0, h1, by rw [h2]; decide, ?_⟩)⟩
    rw [h.2, enterDigit, h2]; simp [digitSum, contribution, h2]
  split at h
  · rename_i h2; rw [digitTens, retire_next_iff] at h
    refine ⟨h.1, .inr (.inl ⟨h0, h1, by rw [h2]; decide, ?_⟩)⟩
    rw [h.2, enterDigit, h2]; simp [digitSum, contribution, h2]
  · rename_i h2 h3; rw [digitUnits, retire_next_iff] at h
    have hs := (State.specified_iff s).1 h.1
    have h4 : s.rd = 0 := by
      have a := hs.2.2.1
      generalize s.rd = r at a h2 h3
      revert r; decide
    refine ⟨h.1, .inr (.inr ⟨h0, h4, ?_, h.2⟩)⟩
    simpa [digitSum, contribution, h4] using h1

/-- Every case of a token: what `exec` can do when it answers a next state. -/
theorem exec_next {i : Instr} {s t : State} (h : exec i s = .next t) :
    s.specified = true ∧
    (t = s.loadAction .none ∨
      (∃ c, i.token = .qry c ∧ c.toNat < s.cfg.nCh ∧
        t = ({ s with qv := true, qch := c, qpos := (s.chan c).pos } : State).loadAction (.query c)) ∨
      (∃ c, i.token = .sel c ∧ c.toNat < s.cfg.nCh ∧
        t = ({ s with sel_v := true, sel := c, acc := 0, rd := 2 } : State).loadAction (.select c)) ∨
      (∃ v, i.token = .dig v ∧ v ≤ 9 ∧ s.sel_v = true ∧ digitSum v s ≤ 999 ∧ s.rd ≠ 0 ∧
        t = (enterDigit v s).loadAction .none) ∨
      (∃ v, i.token = .dig v ∧ v ≤ 9 ∧ s.sel_v = true ∧ s.rd = 0 ∧ s.acc.toNat + v ≤ 999 ∧
        t = (completeMove v s).loadAction (.move s.sel (completedTarget v s)))) := by
  by_cases hw : i.wellFormed s.cfg = true
  · rw [exec_of_wellFormed hw] at h
    match ht : i.token with
    | .qry c =>
      rw [ht] at h
      have := query_next_iff.1 h
      exact ⟨this.1, .inr (.inl ⟨c, rfl, channel_lt_of_wellFormed hw (.inl ht), this.2⟩)⟩
    | .sel c =>
      rw [ht] at h
      have := select_next_iff.1 h
      exact ⟨this.1, .inr (.inr (.inl ⟨c, rfl, channel_lt_of_wellFormed hw (.inr ht), this.2⟩))⟩
    | .dig v =>
      rw [ht] at h
      have h9 := digit_le_nine ht
      obtain ⟨hs, ⟨h, -⟩ | ⟨a, b, c, d⟩ | ⟨a, b, c, d⟩⟩ := digit_next h
      · exact ⟨hs, .inl h⟩
      · exact ⟨hs, .inr (.inr (.inr (.inl ⟨v, rfl, h9, a, b, c, d⟩)))⟩
      · exact ⟨hs, .inr (.inr (.inr (.inr ⟨v, rfl, h9, a, b, c, d⟩)))⟩
    | .ign =>
      rw [ht] at h
      have := ignored_next_iff.1 h
      exact ⟨this.1, .inl this.2⟩
  · rw [exec_of_not_wellFormed (by simpa using hw)] at h
    have := ignored_next_iff.1 h
    exact ⟨this.1, .inl this.2⟩

/-- In a specified state every token answers a next state. -/
theorem exec_completes (i : Instr) (s : State) (h : s.specified = true) : ∃ t, exec i s = .next t := by
  have hr : ∀ f a, ∃ t, retire s f a = .next t := fun f a => ⟨_, retire_next_iff.2 ⟨h, rfl⟩⟩
  by_cases hw : i.wellFormed s.cfg = true
  · rw [exec_of_wellFormed hw]
    match i.token with
    | .qry c => simp only [meaningOf, query]; exact hr _ _
    | .sel c => simp only [meaningOf, select]; exact hr _ _
    | .ign => simp only [meaningOf, ignored]; exact hr _ _
    | .dig v => simp only [meaningOf, digit, ignored, digitHundreds, digitTens, digitUnits]; split_ifs <;> exact hr _ _
  · rw [exec_of_not_wellFormed (by simpa using hw), ignored]; exact hr _ _

/-- No token writes the parameters or the inputs still to come (R37). -/
theorem exec_keeps_cfg {i : Instr} {s t : State} (h : exec i s = .next t) : t.cfg = s.cfg ∧ t.inputs = s.inputs := by
  obtain ⟨-, h | ⟨c, -, -, h⟩ | ⟨c, -, -, h⟩ | ⟨v, -, -, -, -, -, h⟩ | ⟨v, -, -, -, -, -, h⟩⟩ := exec_next h <;>
    subst h <;> exact ⟨rfl, rfl⟩

/-- Where the element writes of a token do not look at the inputs still to come, neither does the token. -/
theorem retire_with_inputs {s e : State} {f : State → State} {a : Action} (l : List Inputs)
    (hf : ∀ s : State, f { s with inputs := l } = { f s with inputs := l }) (h : retire s f a = .next e) :
    retire { s with inputs := l } f a = .next { e with inputs := l } := by
  rw [retire_next_iff] at h ⊢
  refine ⟨h.1, ?_⟩
  rw [h.2, hf]; rfl

/-- No token reads the inputs still to come. -/
theorem exec_with_inputs {i : Instr} {s e : State} (l : List Inputs) (h : exec i s = .next e) :
    exec i { s with inputs := l } = .next { e with inputs := l } := by
  by_cases hw : i.wellFormed s.cfg = true
  · rw [exec_of_wellFormed hw] at h
    rw [exec_of_wellFormed (s := { s with inputs := l }) hw]
    match ht : i.token with
    | .qry c => rw [ht] at h; simp only [meaningOf, query] at h ⊢; exact retire_with_inputs l (fun _ => rfl) h
    | .sel c => rw [ht] at h; simp only [meaningOf, select] at h ⊢; exact retire_with_inputs l (fun _ => rfl) h
    | .ign => rw [ht] at h; simp only [meaningOf, ignored] at h ⊢; exact retire_with_inputs l (fun _ => rfl) h
    | .dig v =>
      rw [ht] at h
      have hp : passesMax v { s with inputs := l } = passesMax v s := rfl
      simp only [meaningOf, digit, ignored, digitHundreds, digitTens, digitUnits, hp] at h ⊢
      split_ifs at h ⊢ <;> exact retire_with_inputs l (fun _ => rfl) h
  · rw [exec_of_not_wellFormed (by simpa using hw), ignored] at h
    rw [exec_of_not_wellFormed (s := { s with inputs := l }) (by simpa using hw), ignored]
    exact retire_with_inputs l (fun _ => rfl) h

end Sys2Proof.Machine
end

