-- ==== Sys2Proof/Laws/PerInstr.lean ====
section
/-! SUPPORT. The per-instruction family `EncodeIsToken`: the byte of a well-formed token lies in the range of the
token's class (R72 to R74), with the token's field. -/

namespace Sys2Proof.Laws.EncodeIsToken

open Sys2Proof.Machine

/-- The byte of the token, classified by the ranges of R72 to R74, is the token's class and field. -/
def Statement (i : Instr) : Prop :=
  ∀ cfg : Config, i.wellFormed cfg = true → classify cfg (encodeByte i) = i.token

theorem of_all {i : Instr}
    (h : ∀ n z, i.wellFormed ⟨n, z⟩ = true → classify ⟨n, z⟩ (encodeByte i) = i.token) : Statement i :=
  fun cfg => h cfg.n_ch cfg.zero_is_digit

theorem queryA : Statement .queryA := of_all fun n z => by cases n <;> cases z <;> decide
theorem queryB : Statement .queryB := of_all fun n z => by cases n <;> cases z <;> decide
theorem queryC : Statement .queryC := of_all fun n z => by cases n <;> cases z <;> decide
theorem queryD : Statement .queryD := of_all fun n z => by cases n <;> cases z <;> decide
theorem queryE : Statement .queryE := of_all fun n z => by cases n <;> cases z <;> decide
theorem queryF : Statement .queryF := of_all fun n z => by cases n <;> cases z <;> decide
theorem queryG : Statement .queryG := of_all fun n z => by cases n <;> cases z <;> decide
theorem queryH : Statement .queryH := of_all fun n z => by cases n <;> cases z <;> decide
theorem selectA : Statement .selectA := of_all fun n z => by cases n <;> cases z <;> decide
theorem selectB : Statement .selectB := of_all fun n z => by cases n <;> cases z <;> decide
theorem selectC : Statement .selectC := of_all fun n z => by cases n <;> cases z <;> decide
theorem selectD : Statement .selectD := of_all fun n z => by cases n <;> cases z <;> decide
theorem selectE : Statement .selectE := of_all fun n z => by cases n <;> cases z <;> decide
theorem selectF : Statement .selectF := of_all fun n z => by cases n <;> cases z <;> decide
theorem selectG : Statement .selectG := of_all fun n z => by cases n <;> cases z <;> decide
theorem selectH : Statement .selectH := of_all fun n z => by cases n <;> cases z <;> decide
theorem digit0 : Statement .digit0 := of_all fun n z => by cases n <;> cases z <;> decide
theorem digit1 : Statement .digit1 := of_all fun n z => by cases n <;> cases z <;> decide
theorem digit2 : Statement .digit2 := of_all fun n z => by cases n <;> cases z <;> decide
theorem digit3 : Statement .digit3 := of_all fun n z => by cases n <;> cases z <;> decide
theorem digit4 : Statement .digit4 := of_all fun n z => by cases n <;> cases z <;> decide
theorem digit5 : Statement .digit5 := of_all fun n z => by cases n <;> cases z <;> decide
theorem digit6 : Statement .digit6 := of_all fun n z => by cases n <;> cases z <;> decide
theorem digit7 : Statement .digit7 := of_all fun n z => by cases n <;> cases z <;> decide
theorem digit8 : Statement .digit8 := of_all fun n z => by cases n <;> cases z <;> decide
theorem digit9 : Statement .digit9 := of_all fun n z => by cases n <;> cases z <;> decide
theorem ignore (b : Byte) : Statement (.ignore b) := fun _ hw => of_decide_eq_true hw

end Sys2Proof.Laws.EncodeIsToken
end

