-- ==== Sys2Proof/Laws/Step.lean ====
section
/-! SUPPORT. What a clock edge can do, said once; the states the block is specified from are closed under it. -/

namespace Sys2Proof.Machine

/-! ### Specified states -/

theorem State.specified_of {s t : State} (hc : t.cfg = s.cfg) (hl : t.chans.length = s.chans.length)
    (h : s.specified = true) (ha : t.acc.toNat ≤ 999) (hr : t.rd ≠ 3) (hs : t.sel.toNat < s.cfg.nCh)
    (hm : ∀ ch ∈ t.chans, ch.pos.toNat ≤ 999 ∧ ch.mot ≠ 0b11) : t.specified = true := by
  rw [State.specified_iff] at *
  exact ⟨by rw [hl, hc]; exact h.1, ha, hr, by rw [hc]; exact hs, hm⟩

theorem completedTarget_toNat {v : Nat} {s : State} (h : s.acc.toNat + v ≤ 999) :
    (completedTarget v s).toNat = s.acc.toNat + v := by
  simp [completedTarget]; omega

theorem enterDigit_acc_toNat {v : Nat} {s : State} (h : digitSum v s ≤ 999) :
    (enterDigit v s).acc.toNat = digitSum v s := by
  simp [enterDigit]; omega

/-- Stepping a legal digit index down keeps it legal (R24). -/
theorem DigitIndex.pred_ne_three : ∀ r : DigitIndex, r ≠ 0 → r - 1 ≠ 3 := by decide

/-- A token leads from a specified state to a specified state. -/
theorem exec_keeps_specified {i : Instr} {s t : State} (h : exec i s = .next t) : t.specified = true := by
  obtain ⟨hsp, h | ⟨c, -, -, h⟩ | ⟨c, -, hc, h⟩ | ⟨v, -, -, -, hd, hr, h⟩ | ⟨v, -, -, -, hr, hd, h⟩⟩ := exec_next h <;>
    have hs := (State.specified_iff s).1 hsp <;> subst h
  · exact State.specified_of (s := s) rfl rfl hsp hs.2.1 hs.2.2.1 hs.2.2.2.1 hs.2.2.2.2
  · exact State.specified_of (s := s) rfl rfl hsp hs.2.1 hs.2.2.1 hs.2.2.2.1 hs.2.2.2.2
  · exact State.specified_of (s := s) rfl rfl hsp (by simp) (by simp) hc hs.2.2.2.2
  · refine State.specified_of (s := s) rfl rfl hsp ?_ ?_ hs.2.2.2.1 hs.2.2.2.2
    · rw [State.loadAction_acc, enterDigit_acc_toNat hd]; exact hd
    · exact DigitIndex.pred_ne_three _ hr
  · refine State.specified_of (s := s) rfl (by simp [completeMove]) hsp ?_ hs.2.2.1 hs.2.2.2.1 ?_
    · rw [State.loadAction_acc, completeMove, setTarget_acc, completedTarget_toNat hd]; exact hd
    · intro ch hm
      rw [State.loadAction_chans, completeMove, setTarget_chans] at hm
      rcases List.mem_or_eq_of_mem_set hm with hm | hm
      · exact hs.2.2.2.2 ch hm
      · subst hm
        refine ⟨?_, steer_ne_both _ _⟩
        exact (hs.2.2.2.2 _ (State.chan_mem s s.sel (by rw [hs.1]; exact hs.2.2.2.1))).1

/-- The end of a cycle leads from a specified state to a specified state. -/
theorem endCycle_keeps_specified {inp : Inputs} {s : State} (h : s.specified = true) :
    (endCycle inp s).specified = true := by
  have hs := (State.specified_iff s).1 h
  refine State.specified_of (by simp) (by simp) h (by simpa using hs.2.1) (by simpa using hs.2.2.1)
    (by simpa using hs.2.2.2.1) ?_
  intro ch hm
  obtain ⟨old, ho, rfl | ⟨hd, rfl⟩⟩ := positionWrite_mem hs.1 hm
  · exact hs.2.2.2.2 _ ho
  · exact ⟨hd, (hs.2.2.2.2 _ ho).2⟩

theorem waitCycle_keeps_specified {inp : Inputs} {s : State} (h : s.specified = true) :
    (waitCycle inp s).specified = true := by
  have hs := (State.specified_iff s).1 h
  exact State.specified_of rfl rfl h hs.2.1 hs.2.2.1 hs.2.2.2.1 hs.2.2.2.2

theorem resetOf_specified (cfg : Config) (inputs : List Inputs) : (State.resetOf cfg inputs).specified = true := by
  rw [State.specified_iff]
  refine ⟨by simp, by simp, by simp, by have := seven_le_nCh cfg; simp; omega, ?_⟩
  intro ch hm
  simp only [State.resetOf_chans] at hm
  rw [List.eq_of_mem_replicate hm]; decide

/-! ### The clock edge -/

theorem step_of_rst {s : State} (h : s.sampled.rst = true) : step s = .next (State.resetOf s.cfg s.inputs.tail) := by
  simp [step, clockEdge, h, resetCycle]

theorem step_of_fires {s : State} (h : s.fires = true) : step s = consumingCycle s := by
  have : s.sampled.rst = false := by simp [State.fires, State.inReady] at h; exact h.2.1
  simp [step, clockEdge, h, this]

theorem step_of_waits {s : State} (hr : s.sampled.rst = false) (h : s.fires = false) : step s = waitingCycle s := by
  simp [step, clockEdge, h, hr]

/-- Every case of a step: reset, a consumed token, or a cycle without a byte. -/
theorem step_cases {s t : State} (h : step s = .next t) :
    (s.sampled.rst = true ∧ t = State.resetOf s.cfg s.inputs.tail) ∨
    (s.sampled.rst = false ∧ s.sampled.in_valid = true ∧ s.qv = false ∧
      ∃ e, exec s.fetched s = .next e ∧ t = endCycle s.sampled e) ∨
    (s.sampled.rst = false ∧ (s.sampled.in_valid = false ∨ s.qv = true) ∧ s.specified = true ∧
      t = endCycle s.sampled (waitCycle s.sampled s)) := by
  by_cases hr : s.sampled.rst = true
  · rw [step_of_rst hr] at h; exact .inl ⟨hr, (Host.Outcome.next.inj h).symm⟩
  · replace hr : s.sampled.rst = false := by simpa using hr
    by_cases hf : s.fires = true
    · rw [step_of_fires hf, consumingCycle, onNext_next_iff] at h
      obtain ⟨e, he, ht⟩ := h
      simp [State.fires, State.inReady, hr] at hf
      exact .inr (.inl ⟨hr, hf.1, hf.2, e, he, (Host.Outcome.next.inj ht).symm⟩)
    · replace hf : s.fires = false := by simpa using hf
      rw [step_of_waits hr hf, waitingCycle, guarded_next_iff] at h
      refine .inr (.inr ⟨hr, ?_, h.1, h.2⟩)
      simp [State.fires, State.inReady, hr] at hf
      by_cases hv : s.sampled.in_valid = true
      · exact .inr (hf hv)
      · exact .inl (by simpa using hv)

/-- A step that answers a next state leaves the block in a specified state. -/
theorem step_gives_specified {s t : State} (h : step s = .next t) : t.specified = true := by
  rcases step_cases h with ⟨-, rfl⟩ | ⟨-, -, -, e, he, rfl⟩ | ⟨-, -, hs, rfl⟩
  · exact resetOf_specified _ _
  · exact endCycle_keeps_specified (exec_keeps_specified he)
  · exact endCycle_keeps_specified (waitCycle_keeps_specified hs)

/-- From a specified state every step answers a next state. -/
theorem step_completes {s : State} (h : s.specified = true) : ∃ t, step s = .next t := by
  by_cases hr : s.sampled.rst = true
  · exact ⟨_, step_of_rst hr⟩
  · replace hr : s.sampled.rst = false := by simpa using hr
    by_cases hf : s.fires = true
    · obtain ⟨e, he⟩ := exec_completes s.fetched s h
      exact ⟨_, by rw [step_of_fires hf, consumingCycle, he]; rfl⟩
    · exact ⟨_, by rw [step_of_waits hr (by simpa using hf), waitingCycle, guarded_next_iff]; exact ⟨h, rfl⟩⟩

/-! ### Runs -/

theorem run_zero (s : State) : Sys2Proof.core.run 0 s = .next s := rfl

theorem run_succ_of_step (M : Host.Core) {n : Nat} {s t : M.State} (h : M.step s = .next t) :
    M.run (n + 1) s = M.run n t := by
  rw [Host.Core.run, h]

theorem run_succ_of_next {n : Nat} {s t : State} (h : step s = .next t) :
    Sys2Proof.core.run (n + 1) s = Sys2Proof.core.run n t :=
  run_succ_of_step Sys2Proof.core h

theorem step_of_run_succ (M : Host.Core) {n : Nat} {s u : M.State} (h : M.run (n + 1) s = .next u) :
    ∃ t, M.step s = .next t ∧ M.run n t = .next u := by
  rw [Host.Core.run] at h
  split at h
  · rename_i t ht; exact ⟨t, ht, h⟩
  · cases h
  · cases h

/-- A run that answers a next state begins with a step that does. -/
theorem step_of_run {n : Nat} {s u : State} (h : Sys2Proof.core.run (n + 1) s = .next u) :
    ∃ t, step s = .next t ∧ Sys2Proof.core.run n t = .next u :=
  step_of_run_succ Sys2Proof.core h

end Sys2Proof.Machine
end

