-- ==== Sys2Proof/Tests/Slice0.lean ====
section
/-! SUPPORT. The model's own tests. Expected values come from spec/opcode_table.json, from the vectors of
spec/95_test_vectors.md (cited by section) or, where no vector names the row, from the row's rule by hand. The last part
shows for every obligation with hypotheses a concrete input that meets them. -/

namespace Sys2Proof.Tests

open Sys2Proof.Machine

/-! ### Helpers -/

/-- A decoder state over a registry at its reset values, for the parameters named. -/
def st (n : ChannelCount) (z : Bool) (sv : Bool) (sel : ChIdx) (acc : Level) (rd : DigitIndex) : State :=
  { State.resetOf { n_ch := n, zero_is_digit := z } [] with sel_v := sv, sel := sel, acc := acc, rd := rd }

/-- The reset state of the vectors: `N_CH = 8`, `ZERO_IS_DIGIT = false`. -/
def start : State := st .eight false false 0 0 2

/-- `s` with the position of channel `c` at `p`. -/
def withPos (s : State) (c : ChIdx) (p : Level) : State := s.setChan c { s.chan c with pos := p }

/-- A registry with a position of its own on every channel. -/
def tracked : State :=
  withPos (withPos (withPos (withPos (withPos (withPos (withPos (withPos start 0 11) 1 122) 2 233) 3 344) 4 455) 5 566) 6 677)
    7 788

/-- PH_T with `acc = 500` on channel 0 (spec/95 §2.2). -/
def midEntry : State := st .eight false true 0 500 1

/-- PH_T with `acc = 100` and `ZERO_IS_DIGIT` (spec/95 §2.3). -/
def tensEntry : State := st .eight true true 0 100 1

/-- Channel 3 driving down, as in spec/95 §2.10. -/
def driving : State := midEntry.setChan 3 { pos := 777, tgt := 42, tv := true, mot := 0b01 }

/-- The cycle inputs `l`, then idle cycles. -/
def feeding (s : State) (l : List Inputs) : State := { s with inputs := l }

/-- A cycle in which only the tracker writes. -/
def write (c : ChIdx) (p : Level) : Inputs := { Inputs.idle with pos_wr_en := true, pos_wr_ch := c, pos_wr_data := p }

/-- A cycle with reset. -/
def resetting : Inputs := { Inputs.idle with rst := true }

/-- A pending query of channel 0 on `s`. -/
def pending (s : State) : State := { s with qv := true, qch := 0, qpos := 5 }

/-- The next state of an outcome meets `p`. -/
def goes (o : Host.Outcome State Fault Refusal) (p : State → Bool) : Bool :=
  match o with
  | .next t => p t
  | .fault _ => false
  | .refused _ => false

/-- The next state of a step that answers one. -/
def stepTo (s : State) : State :=
  match step s with
  | .next t => t
  | .fault _ => s
  | .refused _ => s

theorem step_to {s : State} (h : goes (step s) (fun _ => true) = true) : step s = .next (stepTo s) := by
  unfold stepTo
  cases hs : step s with
  | next t => rfl
  | fault r => exact nomatch r
  | refused r => rw [hs] at h; cases h

/-- The next state of a token that answers one. -/
def execTo (i : Instr) (s : State) : State :=
  match exec i s with
  | .next t => t
  | .fault _ => s
  | .refused _ => s

theorem exec_to {i : Instr} {s : State} (h : goes (exec i s) (fun _ => true) = true) : exec i s = .next (execTo i s) := by
  unfold execTo
  cases hs : exec i s with
  | next t => rfl
  | fault r => exact nomatch r
  | refused r => rw [hs] at h; cases h

/-- The invariants of a decoder state over a registry at its reset values. -/
theorem inv_st {n : ChannelCount} {z sv : Bool} {sel : ChIdx} {acc : Level} {rd : DigitIndex} (h1 : acc.toNat ≤ 999)
    (h2 : rd = 0 ∨ rd = 1 ∨ rd = 2) (h3 : rd = 2 → acc = 0) (h4 : sv = false → acc = 0 ∧ rd = 2)
    (h5 : rd = 1 → acc.toNat % 100 = 0 ∧ acc.toNat ≤ 900) (h6 : sel.toNat < 7) : (st n z sv sel acc rd).Inv where
  entries := by simp [st]
  acc_le := h1
  rd_legal := h2
  hundreds := h3
  unselected := h4
  tens := h5
  channels := fun ch h => by
    have h : ch ∈ List.replicate (Config.nCh { n_ch := n, zero_is_digit := z }) Channel.reset := h
    rw [List.eq_of_mem_replicate h]
    exact ⟨by decide, by decide, by decide, by decide⟩
  sel_lt := Nat.lt_of_lt_of_le h6 (seven_le_nCh _)
  qch_lt := Nat.lt_of_lt_of_le (show (0 : ChIdx).toNat < 7 by decide) (seven_le_nCh _)
  act_ch_lt := Nat.lt_of_lt_of_le (show (0 : ChIdx).toNat < 7 by decide) (seven_le_nCh _)
  qpos_le := show (0 : Level).toNat ≤ 999 by decide
  act_tgt_le := show (0 : Level).toNat ≤ 999 by decide

/-! ### WellFormed: ill-formed terms are refused -/

theorem test_wf_queryH_absent : Instr.wellFormed { n_ch := .seven, zero_is_digit := true } .queryH = false := by decide
theorem test_wf_selectH_absent : Instr.wellFormed { n_ch := .seven, zero_is_digit := true } .selectH = false := by decide
theorem test_wf_digit0_absent : Instr.wellFormed { n_ch := .eight, zero_is_digit := false } .digit0 = false := by decide
theorem test_wf_ignore_claimed : Instr.wellFormed { n_ch := .eight, zero_is_digit := false } (.ignore 0x41) = false := by decide
theorem test_wf_ignore_free : Instr.wellFormed { n_ch := .seven, zero_is_digit := false } (.ignore 0x48) = true := by decide

/-! ### Decoding: every row's word, written out from the `encoding` column -/

theorem test_decode_query_A : decode Config.table [0b01000001#8] = .ok .queryA := by decide
theorem test_decode_query_B : decode Config.table [0b01000010#8] = .ok .queryB := by decide
theorem test_decode_query_C : decode Config.table [0b01000011#8] = .ok .queryC := by decide
theorem test_decode_query_D : decode Config.table [0b01000100#8] = .ok .queryD := by decide
theorem test_decode_query_E : decode Config.table [0b01000101#8] = .ok .queryE := by decide
theorem test_decode_query_F : decode Config.table [0b01000110#8] = .ok .queryF := by decide
theorem test_decode_query_G : decode Config.table [0b01000111#8] = .ok .queryG := by decide
theorem test_decode_query_H : decode Config.table [0b01001000#8] = .ok .queryH := by decide
theorem test_decode_select_a : decode Config.table [0b01100001#8] = .ok .selectA := by decide
theorem test_decode_select_b : decode Config.table [0b01100010#8] = .ok .selectB := by decide
theorem test_decode_select_c : decode Config.table [0b01100011#8] = .ok .selectC := by decide
theorem test_decode_select_d : decode Config.table [0b01100100#8] = .ok .selectD := by decide
theorem test_decode_select_e : decode Config.table [0b01100101#8] = .ok .selectE := by decide
theorem test_decode_select_f : decode Config.table [0b01100110#8] = .ok .selectF := by decide
theorem test_decode_select_g : decode Config.table [0b01100111#8] = .ok .selectG := by decide
theorem test_decode_select_h : decode Config.table [0b01101000#8] = .ok .selectH := by decide
theorem test_decode_digit_0 : decode Config.table [0b00110000#8] = .ok .digit0 := by decide
theorem test_decode_digit_1 : decode Config.table [0b00110001#8] = .ok .digit1 := by decide
theorem test_decode_digit_2 : decode Config.table [0b00110010#8] = .ok .digit2 := by decide
theorem test_decode_digit_3 : decode Config.table [0b00110011#8] = .ok .digit3 := by decide
theorem test_decode_digit_4 : decode Config.table [0b00110100#8] = .ok .digit4 := by decide
theorem test_decode_digit_5 : decode Config.table [0b00110101#8] = .ok .digit5 := by decide
theorem test_decode_digit_6 : decode Config.table [0b00110110#8] = .ok .digit6 := by decide
theorem test_decode_digit_7 : decode Config.table [0b00110111#8] = .ok .digit7 := by decide
theorem test_decode_digit_8 : decode Config.table [0b00111000#8] = .ok .digit8 := by decide
theorem test_decode_digit_9 : decode Config.table [0b00111001#8] = .ok .digit9 := by decide
theorem test_decode_ignore : decode Config.table [0b00100000#8] = .ok (.ignore 0b00100000#8) := by decide

/-- spec/95 §2.1, the bytes next to each range and with the high bit set. -/
theorem test_classify_edges :
    ([0x00, 0x2F, 0x30, 0x3A, 0x40, 0x49, 0x60, 0x69, 0x7F, 0xC1, 0xE1, 0xB1, 0xFF] : List Byte).all
      (fun b => classify { n_ch := .eight, zero_is_digit := false } b == .ign) = true := by decide

/-- spec/95 §2.1, the end of the alphabet when `N_CH = 7`. -/
theorem test_classify_seven :
    ([0x47, 0x48, 0x67, 0x68] : List Byte).map (classify { n_ch := .seven, zero_is_digit := false }) =
      [.qry 6, .ign, .sel 6, .ign] := by decide

theorem test_decode_two_bytes : decode Config.table [0x61, 0x31] = .error (.notOneByte 2) := by decide
theorem test_decode_no_byte : decode Config.table [] = .error (.notOneByte 0) := by decide
theorem test_decodeTableWord : decodeTableWord 8 0x68 = some .selectH := by decide
theorem test_withFetchWord :
    goes (step (State.reset.withFetchWord 8 0x30)) (fun t => decide (t.cfg.zero_is_digit = true ∧ t.act = 0)) = true := by decide

/-! ### QUERY (R102; spec/95 §2.4) -/

theorem test_query_A :
    goes (exec .queryA tracked) (fun t => decide (t =
      { tracked with qv := true, qch := 0, qpos := 11, act := 2, act_ch := 0, act_tgt := 0 })) = true := by decide
theorem test_query_B :
    goes (exec .queryB tracked) (fun t => decide (t =
      { tracked with qv := true, qch := 1, qpos := 122, act := 2, act_ch := 1, act_tgt := 0 })) = true := by decide
theorem test_query_C :
    goes (exec .queryC tracked) (fun t => decide (t =
      { tracked with qv := true, qch := 2, qpos := 233, act := 2, act_ch := 2, act_tgt := 0 })) = true := by decide
theorem test_query_D :
    goes (exec .queryD tracked) (fun t => decide (t =
      { tracked with qv := true, qch := 3, qpos := 344, act := 2, act_ch := 3, act_tgt := 0 })) = true := by decide
theorem test_query_E :
    goes (exec .queryE tracked) (fun t => decide (t =
      { tracked with qv := true, qch := 4, qpos := 455, act := 2, act_ch := 4, act_tgt := 0 })) = true := by decide
theorem test_query_F :
    goes (exec .queryF tracked) (fun t => decide (t =
      { tracked with qv := true, qch := 5, qpos := 566, act := 2, act_ch := 5, act_tgt := 0 })) = true := by decide
theorem test_query_G :
    goes (exec .queryG tracked) (fun t => decide (t =
      { tracked with qv := true, qch := 6, qpos := 677, act := 2, act_ch := 6, act_tgt := 0 })) = true := by decide
theorem test_query_H :
    goes (exec .queryH tracked) (fun t => decide (t =
      { tracked with qv := true, qch := 7, qpos := 788, act := 2, act_ch := 7, act_tgt := 0 })) = true := by decide

/-- spec/95 §2.4: a query in PH_T keeps the partial entry. -/
theorem test_query_in_entry :
    goes (exec .queryA (withPos (st .eight false true 0 100 1) 0 42))
      (fun t => decide (t.qpos = 42 ∧ t.acc = 100 ∧ t.rd = 1)) = true := by decide

/-- spec/95 §2.4: `'H'` with `N_CH = 7`. -/
theorem test_query_H_seven :
    goes (exec (decodeByte (st .seven false false 0 0 2).cfg 0x48) (st .seven false false 0 0 2))
      (fun t => decide (t = st .seven false false 0 0 2)) = true := by decide

/-! ### SELECT (R103; spec/95 §2.2) -/

theorem test_select_a :
    goes (exec .selectA midEntry) (fun t => decide (t =
      { midEntry with sel := 0, acc := 0, rd := 2, act := 1, act_ch := 0, act_tgt := 0 })) = true := by decide
theorem test_select_b :
    goes (exec .selectB midEntry) (fun t => decide (t =
      { midEntry with sel := 1, acc := 0, rd := 2, act := 1, act_ch := 1, act_tgt := 0 })) = true := by decide
theorem test_select_c :
    goes (exec .selectC midEntry) (fun t => decide (t =
      { midEntry with sel := 2, acc := 0, rd := 2, act := 1, act_ch := 2, act_tgt := 0 })) = true := by decide
theorem test_select_d :
    goes (exec .selectD midEntry) (fun t => decide (t =
      { midEntry with sel := 3, acc := 0, rd := 2, act := 1, act_ch := 3, act_tgt := 0 })) = true := by decide
theorem test_select_e :
    goes (exec .selectE midEntry) (fun t => decide (t =
      { midEntry with sel := 4, acc := 0, rd := 2, act := 1, act_ch := 4, act_tgt := 0 })) = true := by decide
theorem test_select_f :
    goes (exec .selectF midEntry) (fun t => decide (t =
      { midEntry with sel := 5, acc := 0, rd := 2, act := 1, act_ch := 5, act_tgt := 0 })) = true := by decide
theorem test_select_g :
    goes (exec .selectG midEntry) (fun t => decide (t =
      { midEntry with sel := 6, acc := 0, rd := 2, act := 1, act_ch := 6, act_tgt := 0 })) = true := by decide
theorem test_select_h :
    goes (exec .selectH midEntry) (fun t => decide (t =
      { midEntry with sel := 7, acc := 0, rd := 2, act := 1, act_ch := 7, act_tgt := 0 })) = true := by decide

/-! ### DIGIT (R104 to R108; spec/95 §2.3) -/

theorem test_digit_0_tens :
    goes (exec .digit0 tensEntry) (fun t => decide (t = { tensEntry with acc := 100, rd := 0 })) = true := by decide
theorem test_digit_1_tens :
    goes (exec .digit1 tensEntry) (fun t => decide (t = { tensEntry with acc := 110, rd := 0 })) = true := by decide
theorem test_digit_2_tens :
    goes (exec .digit2 tensEntry) (fun t => decide (t = { tensEntry with acc := 120, rd := 0 })) = true := by decide
theorem test_digit_3_tens :
    goes (exec .digit3 tensEntry) (fun t => decide (t = { tensEntry with acc := 130, rd := 0 })) = true := by decide
theorem test_digit_4_tens :
    goes (exec .digit4 tensEntry) (fun t => decide (t = { tensEntry with acc := 140, rd := 0 })) = true := by decide
theorem test_digit_5_tens :
    goes (exec .digit5 tensEntry) (fun t => decide (t = { tensEntry with acc := 150, rd := 0 })) = true := by decide
theorem test_digit_6_tens :
    goes (exec .digit6 tensEntry) (fun t => decide (t = { tensEntry with acc := 160, rd := 0 })) = true := by decide
theorem test_digit_7_tens :
    goes (exec .digit7 tensEntry) (fun t => decide (t = { tensEntry with acc := 170, rd := 0 })) = true := by decide
theorem test_digit_8_tens :
    goes (exec .digit8 tensEntry) (fun t => decide (t = { tensEntry with acc := 180, rd := 0 })) = true := by decide
theorem test_digit_9_tens :
    goes (exec .digit9 tensEntry) (fun t => decide (t = { tensEntry with acc := 190, rd := 0 })) = true := by decide

theorem test_digit_nosel : goes (exec .digit3 start) (fun t => decide (t = start)) = true := by decide
theorem test_digit_hundreds :
    goes (exec .digit1 (st .eight false true 0 0 2)) (fun t => decide (t.acc = 100 ∧ t.rd = 1 ∧ t.act = 0)) = true := by decide
theorem test_digit_units :
    (goes (exec .digit9 (st .eight false true 0 990 0)) (fun t => decide (t.acc = 999 ∧ t.rd = 0 ∧
        t.chan 0 = { pos := 0, tgt := 999, tv := true, mot := 0b10 } ∧ t.act = 3 ∧ t.act_ch = 0 ∧ t.act_tgt = 999)) &&
      goes (exec .digit9 (st .eight false true 0 991 0)) (fun t => decide (t = st .eight false true 0 991 0))) = true := by
  decide
theorem test_digit_to_max :
    goes (exec .digit8 (st .eight false true 4 991 0)) (fun t => decide (t.acc = 999 ∧ t.act_ch = 4 ∧ (t.chan 4).tgt = 999)) = true := by
  decide
theorem test_digit_stop :
    goes (exec .digit0 (withPos (st .eight true true 0 120 0) 0 120)) (fun t => decide ((t.chan 0).mot = 0b00 ∧ (t.chan 0).tv = true)) = true := by
  decide
theorem test_digit_reverses :
    goes (exec .digit5 ((st .eight false true 0 120 0).setChan 0 { pos := 500, tgt := 600, tv := true, mot := 0b10 }))
      (fun t => decide (t.chan 0 = { pos := 500, tgt := 125, tv := true, mot := 0b01 })) = true := by decide

/-! ### IGNORE (R109; spec/95 §2.5) -/

theorem test_ignore_space :
    goes (exec (.ignore 0x20) (st .eight false true 0 100 1)) (fun t => decide (t = st .eight false true 0 100 1)) = true := by
  decide
theorem test_zero_ignored :
    goes (exec (decodeByte (st .eight false true 0 100 1).cfg 0x30) (st .eight false true 0 100 1))
      (fun t => decide (t = st .eight false true 0 100 1)) = true := by decide

/-! ### steer, set_target, the report (spec/95 §2.6, §2.11) -/

theorem test_steer :
    [steer 0 0, steer 999 999, steer 999 0, steer 0 999, steer 1 0, steer 998 999, steer 500 500, steer 125 0, steer 123 500,
      steer 512 511] = [0b00, 0b00, 0b10, 0b01, 0b10, 0b01, 0b00, 0b10, 0b01, 0b10] := by decide
theorem test_set_target :
    ((setTarget 1 123 (withPos start 1 500)).chan 1) = { pos := 500, tgt := 123, tv := true, mot := 0b01 } := by decide
theorem test_report :
    [report 0 0, report 0 7, report 1 105, report 3 40, report 7 999] =
      [[0x61, 0x30, 0x30, 0x30], [0x61, 0x30, 0x30, 0x37], [0x62, 0x31, 0x30, 0x35], [0x64, 0x30, 0x34, 0x30],
        [0x68, 0x39, 0x39, 0x39]] := by decide

/-! ### The cycle (spec/95 §2.7 to §2.10) -/

theorem test_write : (positionWrite (write 2 555) start).chan 2 = { pos := 555, tgt := 999, tv := false, mot := 0b00 } := by decide
theorem test_write_channel_out_of_range :
    positionWrite (write 7 999) (st .seven false false 0 0 2) = st .seven false false 0 0 2 := by decide
theorem test_write_value_out_of_range : positionWrite (write 0 1000) start = start := by decide
theorem test_same_cycle_write :
    goes (step (feeding (st .eight false true 0 120 0) [{ write 0 200 with in_valid := true, in_data := 0x35 }]))
      (fun t => decide (t.chan 0 = { pos := 200, tgt := 125, tv := true, mot := 0b10 } ∧ t.act = 3 ∧ t.act_tgt = 125)) = true := by
  decide
theorem test_write_while_pending :
    goes (step (feeding (pending start) [write 0 300])) (fun t => decide ((t.chan 0).pos = 300 ∧ t.qpos = 5 ∧ t.qv = true)) = true := by
  decide
theorem test_handshake :
    goes (step (feeding (pending start) [{ accept with in_valid := true, in_data := 0x61 }]))
      (fun t => decide (t.qv = false ∧ t.sel_v = false ∧ t.act = 0)) = true := by decide
theorem test_reset_wins :
    goes (step (feeding { driving with qv := true } [{ write 0 5 with rst := true, in_valid := true, in_data := 0x35 }]))
      (fun t => decide (t = start)) = true := by decide
theorem test_ready :
    [(feeding start [resetting]).inReady, (pending start).inReady, start.inReady] = [false, false, true] := by decide
theorem test_ports :
    (driving.outputs.mot_up, driving.outputs.mot_dn) =
      ([false, false, false, false, false, false, false, false], [false, false, false, true, false, false, false, false]) := by
  decide
theorem test_reset_is_reference : State.reset = start := by decide
theorem test_rd_three_refused : (st .eight false true 0 0 3).specified = false := by decide

/-! ### Witnesses: inputs that meet the hypotheses of the obligations -/


theorem witness_reset_channels :
    (6 : ChIdx).toNat < Config.nCh { n_ch := .seven, zero_is_digit := false } ∧
      (7 : ChIdx).toNat < Config.nCh { n_ch := .eight, zero_is_digit := false } := by decide

theorem witness_reset_cycle_held :
    ∃ s t, s.sampled.rst = true ∧ step s = .next t ∧ t.sampled.rst = true :=
  ⟨feeding driving [resetting, resetting], _, by decide, step_to (by decide), by decide⟩

theorem witness_reset_cycle_released :
    ∃ s t, s.sampled.rst = true ∧ step s = .next t ∧ t.sampled.rst = false :=
  ⟨feeding driving [resetting], _, by decide, step_to (by decide), by decide⟩

theorem witness_query :
    ∃ p ∈ queryRows, ∃ s : State, s.specified = true ∧ p.2.toNat < s.cfg.nCh := ⟨(.queryH, 7), by decide, start, by decide⟩

theorem witness_query_beyond :
    ∃ p ∈ queryRows, ∃ s : State, s.specified = true ∧ s.cfg.nCh ≤ p.2.toNat :=
  ⟨(.queryH, 7), by decide, st .seven false false 0 0 2, by decide⟩

theorem witness_query_pending :
    ∃ s t : State, s.qv = true ∧ s.sampled.rst = false ∧ step s = .next t :=
  ⟨feeding (pending start) [offer 0x42], _, by decide, by decide, step_to (by decide)⟩

theorem witness_select :
    ∃ p ∈ selectRows, ∃ s : State, s.specified = true ∧ p.2.toNat < s.cfg.nCh := ⟨(.selectH, 7), by decide, start, by decide⟩

theorem witness_select_beyond :
    ∃ p ∈ selectRows, ∃ s : State, s.specified = true ∧ s.cfg.nCh ≤ p.2.toNat :=
  ⟨(.selectH, 7), by decide, st .seven false false 0 0 2, by decide⟩

theorem witness_hundreds :
    ∃ p ∈ digitRows, ∃ s : State, s.specified = true ∧ p.1.wellFormed s.cfg = true ∧ s.sel_v = true ∧ s.rd = 2 ∧ s.acc = 0 :=
  ⟨(.digit0, 0), by decide, st .eight true true 7 0 2, by decide⟩

theorem witness_tens :
    ∃ p ∈ digitRows, ∃ s : State, s.specified = true ∧ p.1.wellFormed s.cfg = true ∧ s.sel_v = true ∧ s.rd = 1 ∧
      s.acc.toNat ≤ 900 :=
  ⟨(.digit9, 9), by decide, st .eight false true 0 900 1, by decide⟩

theorem witness_units_completes :
    ∃ p ∈ digitRows, ∃ s : State, s.specified = true ∧ p.1.wellFormed s.cfg = true ∧ s.sel_v = true ∧ s.rd = 0 ∧
      s.acc.toNat + p.2 ≤ 999 :=
  ⟨(.digit9, 9), by decide, st .eight false true 0 990 0, by decide⟩

theorem witness_units_ignored :
    ∃ p ∈ digitRows, ∃ s : State, s.specified = true ∧ p.1.wellFormed s.cfg = true ∧ s.sel_v = true ∧ s.rd = 0 ∧
      999 < s.acc.toNat + p.2 :=
  ⟨(.digit9, 9), by decide, st .eight false true 0 991 0, by decide⟩

theorem witness_digit_past_max :
    ∃ p ∈ digitRows, ∃ s : State, s.specified = true ∧ p.1.wellFormed s.cfg = true ∧ s.sel_v = true ∧
      999 < s.acc.toNat + p.2 * 10 ^ s.rd.toNat :=
  ⟨(.digit1, 1), by decide, st .eight false true 0 999 0, by decide⟩

theorem witness_digit_enters :
    ∃ p ∈ digitRows, ∃ s : State, s.specified = true ∧ p.1.wellFormed s.cfg = true ∧ s.sel_v = true ∧
      s.acc.toNat + p.2 * 10 ^ s.rd.toNat ≤ 999 ∧ s.rd ≠ 0 :=
  ⟨(.digit9, 9), by decide, st .eight false true 0 900 1, by decide⟩

theorem witness_nosel_digit : ∃ p ∈ digitRows, ∃ s : State, s.specified = true ∧ s.sel_v = false :=
  ⟨(.digit5, 5), by decide, start, by decide⟩

theorem witness_nosel_left : ∃ (i : Instr) (s t : State), exec i s = .next t ∧ s.sel_v = false ∧ t.sel_v = true :=
  ⟨.selectA, start, _, exec_to (by decide), by decide, by decide⟩

theorem witness_nosel_entered : ∃ s t : State, step s = .next t ∧ s.sel_v = true ∧ t.sel_v = false :=
  ⟨feeding driving [resetting], _, step_to (by decide), by decide, by decide⟩

theorem witness_ignored :
    start.specified = true ∧ classify start.cfg 0xFF = .ign ∧ start.cfg.zero_is_digit = false ∧
      (st .seven true false 0 0 2).cfg.n_ch = .seven ∧ 0x80 ≤ (0x80 : Byte).toNat := by decide

theorem witness_ignored_cycle :
    ∃ s t : State, s.fires = true ∧ classify s.cfg s.sampled.in_data = .ign ∧ step s = .next t :=
  ⟨feeding midEntry [offer 0x20], _, by decide, by decide, step_to (by decide)⟩

theorem witness_absent_rows :
    (st .seven false false 0 0 2).specified = true ∧
      ([Instr.queryH, Instr.selectH, Instr.digit0].all fun i => !i.wellFormed (st .seven false false 0 0 2).cfg) = true := by
  decide

theorem witness_unspecified :
    ∃ s : State, s.specified = false ∧ s.sampled.rst = false := ⟨st .seven false true 7 0 2, by decide⟩

theorem witness_steer :
    (998 : Level).toNat < (999 : Level).toNat ∧ (0 : Level).toNat < (1 : Level).toNat ∧ (0 : Level) = 0 := by decide

theorem witness_set_target : (7 : ChIdx).toNat < start.chans.length ∧ (6 : ChIdx) ≠ 7 := by decide

theorem witness_ports :
    (7 : ChIdx).toNat < start.chans.length ∧ (pending start).qv = true ∧ start.qv = false := by decide

theorem witness_lines : ∃ s t : State, step s = .next t ∧ ∃ ch ∈ t.chans, ch.down = true :=
  ⟨feeding driving [offer 0x41], _, step_to (by decide), by decide⟩

theorem witness_position_reset : ∃ s t : State, step s = .next t ∧ s.sampled.rst = true ∧ (7 : ChIdx).toNat < s.cfg.nCh :=
  ⟨feeding tracked [resetting], _, step_to (by decide), by decide, by decide⟩

theorem witness_position_written :
    ∃ s t : State, step s = .next t ∧ s.sampled.rst = false ∧ s.sampled.pos_wr_en = true ∧ s.sampled.pos_wr_ch = 7 ∧
      s.sampled.pos_wr_data.toNat ≤ 999 ∧ (7 : ChIdx).toNat < s.cfg.nCh :=
  ⟨feeding start [write 7 999], _, step_to (by decide), by decide, by decide, by decide, by decide, by decide⟩

theorem witness_position_write :
    ∃ (s t : State) (inp : Inputs) (rest : List Inputs), s.inputs = inp :: rest ∧ inp.rst = false ∧ step s = .next t ∧
      (0 : ChIdx) ≠ inp.pos_wr_ch :=
  ⟨feeding driving [write 3 42], _, write 3 42, [], rfl, rfl, step_to (by decide), by decide⟩

theorem witness_move :
    ∃ s t : State, step s = .next t ∧ s.sampled.rst = false ∧ (s.chan 0).tv = false ∧ (t.chan 0).tv = true ∧ t.act = 3 :=
  ⟨feeding (st .eight false true 0 120 0) [offer 0x35], _, step_to (by decide), by decide, by decide, by decide, by decide⟩

theorem witness_move_again :
    ∃ s t : State, step s = .next t ∧ s.sampled.rst = false ∧ (s.chan 3).tv = true :=
  ⟨feeding driving [offer 0x35], _, step_to (by decide), by decide, by decide⟩

theorem witness_query_with_write :
    ∃ s t : State, step s = .next t ∧ s.sampled.rst = false ∧ t.act = 2 ∧ s.sampled.pos_wr_en = true ∧
      s.sampled.pos_wr_ch.toNat < s.cfg.nCh ∧ s.sampled.pos_wr_data.toNat ≤ 999 :=
  ⟨feeding start [{ write 7 999 with in_valid := true, in_data := 0x48 }], _, step_to (by decide), by decide, by decide,
    by decide, by decide, by decide⟩

theorem witness_report : (999 : Level).toNat ≤ 999 := by decide

theorem witness_consumes :
    ∃ s t : State, s.sampled.in_valid = true ∧ s.outputs.in_ready = true ∧ step s = .next t :=
  ⟨feeding start [offer 0x61], _, by decide, by decide, step_to (by decide)⟩

theorem witness_no_byte :
    ∃ s t : State, s.sampled.rst = false ∧ s.sampled.in_valid = false ∧ step s = .next t :=
  ⟨feeding (pending driving) [accept], _, by decide, by decide, step_to (by decide)⟩

theorem witness_step_runs :
    ∃ (s : State) (inp : Inputs) (rest : List Inputs) (i : Instr), s.inputs = inp :: rest ∧ inp.rst = false ∧
      inp.in_valid = true ∧ s.qv = false ∧ decode s.cfg [inp.in_data] = .ok i :=
  ⟨feeding start [offer 0x61], offer 0x61, [], .selectA, rfl, rfl, rfl, rfl, by decide⟩

theorem witness_waiting_no_byte :
    ∃ (s : State) (inp : Inputs) (rest : List Inputs), s.specified = true ∧ s.inputs = inp :: rest ∧ inp.rst = false ∧
      inp.in_valid = false :=
  ⟨feeding start [write 0 5], write 0 5, [], by decide, rfl, rfl, rfl⟩

theorem witness_waiting_pending :
    ∃ (s : State) (inp : Inputs) (rest : List Inputs), s.specified = true ∧ s.inputs = inp :: rest ∧ inp.rst = false ∧
      s.qv = true ∧ inp.in_valid = true :=
  ⟨feeding (pending start) [offer 0x42], offer 0x42, [], by decide, rfl, rfl, rfl, rfl⟩

theorem witness_idle :
    ∃ (s : State) (inp : Inputs) (rest : List Inputs), s.specified = true ∧ s.inputs = inp :: rest ∧ inp.rst = false ∧
      s.qv = true ∧ inp.qry_ready = false ∧ inp.pos_wr_en = false :=
  ⟨feeding (pending start) [offer 0x42], offer 0x42, [], by decide, rfl, rfl, rfl, rfl, rfl⟩

theorem witness_idle_past_end : ∃ s : State, s.specified = true ∧ s.inputs = [] := ⟨driving, by decide, rfl⟩

theorem witness_handshake_completes :
    ∃ (s t : State) (inp : Inputs) (rest : List Inputs), s.inputs = inp :: rest ∧ inp.rst = false ∧ step s = .next t ∧
      s.qv = true ∧ inp.qry_ready = true :=
  ⟨feeding (pending start) [accept], _, accept, [], rfl, rfl, step_to (by decide), rfl, rfl⟩

theorem witness_handshake_waits :
    ∃ (s t : State) (inp : Inputs) (rest : List Inputs), s.inputs = inp :: rest ∧ inp.rst = false ∧ step s = .next t ∧
      s.qv = true ∧ inp.qry_ready = false :=
  ⟨feeding (pending start) [offer 0x42], _, offer 0x42, [], rfl, rfl, step_to (by decide), rfl, rfl⟩

theorem witness_handshake_none :
    ∃ (s t : State) (inp : Inputs) (rest : List Inputs), s.inputs = inp :: rest ∧ inp.rst = false ∧ step s = .next t ∧
      s.qv = false :=
  ⟨feeding start [offer 0x41], _, offer 0x41, [], rfl, rfl, step_to (by decide), rfl⟩

theorem witness_unconsumed :
    ∃ (s : State) (inp : Inputs) (rest : List Inputs), s.inputs = inp :: rest ∧ s.inReady = false :=
  ⟨feeding (pending start) [offer 0x42], offer 0x42, [], rfl, by decide⟩

theorem witness_not_valid :
    ∃ (s : State) (inp : Inputs) (rest : List Inputs), s.inputs = inp :: rest ∧ inp.in_valid = false :=
  ⟨feeding start [accept], accept, [], rfl, rfl⟩

theorem witness_kept_offer :
    ∃ s t : State, SenderKeepsOffer s ∧ s.sampled.in_valid = true ∧ s.inReady = false ∧ step s = .next t ∧ t.inReady = true :=
  ⟨feeding (pending start) [{ accept with in_valid := true, in_data := 0x42 }, offer 0x42], _, fun _ _ => by decide,
    by decide, by decide, step_to (by decide), by decide⟩

theorem witness_pending_holds_up :
    ∃ s t : State, s.qv = true ∧ s.qwait = true ∧ s.sampled.rst = false ∧ step s = .next t :=
  ⟨feeding (pending driving) [write 3 42], _, by decide, by decide, by decide, step_to (by decide)⟩

theorem witness_query_spacing :
    ∃ s t u : State, step s = .next t ∧ t.act = 2 ∧ step t = .next u ∧ t.sampled.rst = false ∧ t.sampled.qry_ready = true ∧
      u.sampled.rst = false :=
  ⟨feeding start [offer 0x41, accept], _, _, step_to (by decide), by decide, step_to (by decide), by decide, by decide,
    by decide⟩

theorem witness_step : ∃ s t : State, step s = .next t := ⟨driving, _, step_to (by decide)⟩

theorem witness_cycle : driving.specified = true ∧ (feeding (st .eight false true 0 0 3) [resetting]).sampled.rst = true := by
  decide

theorem witness_decode :
    Instr.wellFormed { n_ch := .eight, zero_is_digit := true } .queryH = true ∧
      Instr.wellFormed { n_ch := .seven, zero_is_digit := false } (.ignore 0x30) = true := by decide

theorem witness_feed : driving.specified = true := by decide

theorem witness_phases_nosel : start.Inv ∧ start.phase = .nosel ∧ classify start.cfg 0x48 = .qry 7 ∧ classify start.cfg 0x39 = .dig 9 :=
  ⟨inv_st (by decide) (by decide) (by decide) (by decide) (by decide) (by decide), by decide⟩

theorem witness_phases_hundreds :
    (st .eight false true 0 0 2).Inv ∧ (st .eight false true 0 0 2).phase = .hundreds ∧
      classify (st .eight false true 0 0 2).cfg 0x68 = .sel 7 ∧ classify (st .eight false true 0 0 2).cfg 0x31 = .dig 1 :=
  ⟨inv_st (by decide) (by decide) (by decide) (by decide) (by decide) (by decide), by decide⟩

theorem witness_phases_tens :
    (st .seven true true 6 900 1).Inv ∧ (st .seven true true 6 900 1).phase = .tens ∧
      classify (st .seven true true 6 900 1).cfg 0x30 = .dig 0 ∧ classify (st .seven true true 6 900 1).cfg 0x48 = .ign :=
  ⟨inv_st (by decide) (by decide) (by decide) (by decide) (by decide) (by decide), by decide⟩

theorem witness_phases_units :
    (st .eight false true 0 991 0).Inv ∧ (st .eight false true 0 991 0).phase = .units ∧
      classify (st .eight false true 0 991 0).cfg 0x38 = .dig 8 ∧ (st .eight false true 0 991 0).acc.toNat + 8 ≤ 999 ∧
      classify (st .eight false true 0 991 0).cfg 0x39 = .dig 9 ∧ 999 < (st .eight false true 0 991 0).acc.toNat + 9 :=
  ⟨inv_st (by decide) (by decide) (by decide) (by decide) (by decide) (by decide), by decide⟩

theorem witness_select_discards :
    start.specified = true ∧ (7 : ChIdx).toNat < start.cfg.nCh ∧ (1 : ChIdx).toNat < start.cfg.nCh ∧
      (([0x31, 0x32, 0x20] : List Byte).filter (isDigitByte start.cfg)).length < 3 := by decide

theorem witness_query_between : driving.specified = true ∧ (7 : ChIdx).toNat < driving.cfg.nCh := by decide

theorem witness_three_digits :
    start.specified = true ∧ (PseudoCommand.move 7 9 1 9).legal start.cfg = true ∧
      ∀ b ∈ ([0x41] ++ [0x30] ++ [] : List Byte), isFiller start.cfg b = true := by decide

theorem witness_carry_over :
    ∃ (s : State) (ds : List Nat), s.specified = true ∧ s.sel_v = true ∧ s.rd = 0 ∧ ds ≠ [] ∧
      (∀ d ∈ ds, legalDigit s.cfg d = true) ∧ s.acc.toNat + ds.sum ≤ 999 :=
  ⟨st .eight false true 0 984 0, [4, 5, 6], by decide⟩

theorem witness_inv_step : ∃ s t : State, s.Inv ∧ step s = .next t :=
  ⟨midEntry, _, inv_st (by decide) (by decide) (by decide) (by decide) (by decide) (by decide), step_to (by decide)⟩

theorem witness_partial_entry :
    ∃ (n : Nat) (s t : State),
      (∀ inp ∈ s.inputs.take n, inp.rst = false ∧ (inp.in_valid = false ∨ isFiller s.cfg inp.in_data = true)) ∧
      Sys2Proof.core.run n s = .next t ∧ s.acc = 500 :=
  ⟨2, feeding midEntry [offer 0x41, accept], _, by decide,
    (run_succ_of_next (step_to (by decide))).trans ((run_succ_of_next (step_to (by decide))).trans (run_zero _)), by decide⟩

theorem witness_pending_wait :
    ∃ (k : Nat) (s : State) (inp : Inputs), s.specified = true ∧ s.qv = true ∧
      (∀ j ∈ s.inputs.take k, j.rst = false ∧ j.qry_ready = false) ∧ s.inputs[k]? = some inp ∧ inp.rst = false ∧
      inp.qry_ready = true :=
  ⟨2, feeding (pending midEntry) [offer 0x42, offer 0x42, accept], accept, by decide⟩

theorem witness_stream :
    ∃ (s : State) (w : List Byte) (rest : List Inputs), s.specified = true ∧ s.qv = false ∧
      s.inputs = schedule s.cfg w ++ rest ∧ w = [0x61, 0x31, 0x32, 0x35, 0x41] :=
  ⟨feeding start (schedule start.cfg [0x61, 0x31, 0x32, 0x35, 0x41]), [0x61, 0x31, 0x32, 0x35, 0x41], [], by decide⟩

theorem witness_unread :
    ∃ s u t : State, SameButUnread s u ∧ step s = .next t ∧ s ≠ u :=
  ⟨driving, { driving with act := 3, act_tgt := 9 }.setChan 3 { pos := 777, tgt := 999, tv := false, mot := 0b01 }, _,
    ⟨by decide, by decide, by decide⟩, step_to (by decide), by decide⟩

end Sys2Proof.Tests
end

/-! The invariants of R33: the reset state meets them, and every part of a step keeps them, from the registry entry up
to the clock edge; so every run from reset stays within them. -/

namespace Sys2Proof.Machine

/-! ### Reset -/

/-- After reset every channel, read by any index, is at its reset values (R32). -/
@[simp] theorem State.resetOf_chan (cfg : Config) (inputs : List Inputs) (c : ChIdx) :
    (State.resetOf cfg inputs).chan c = Channel.reset := by
  simp [State.chan, List.getD, List.getElem?_getD_replicate_default_eq]

/-- Settles O1: element by element, the registry by its length and by what a read gives. -/
theorem resetStateHoldsTheResetValues : Obligations.ResetStateHoldsTheResetValues := by
  refine ⟨⟨Config.reference, [], rfl⟩, fun cfg inputs => ?_⟩
  have entries : (State.resetOf cfg inputs).chans.length = cfg.nCh := by simp
  exact ⟨rfl, rfl, rfl, rfl, entries, fun c _ => State.resetOf_chan cfg inputs c, rfl, rfl, rfl, rfl, rfl, rfl⟩

/-- Settles O31: reset and the end of a cycle keep the parameters and drop one entry of the inputs, and no token writes
either. -/
theorem stepKeepsTheParameters : Obligations.StepKeepsTheParameters := by
  intro s t h
  rcases step_cases h with ⟨-, rfl⟩ | ⟨-, -, -, e, he, rfl⟩ | ⟨-, -, -, rfl⟩
  · exact ⟨rfl, rfl⟩
  · obtain ⟨hcfg, hinputs⟩ := exec_keeps_cfg he
    simp [hcfg, hinputs]
  · simp

/-! ### One registry entry -/

theorem Channel.inv_reset : Channel.reset.Inv where
  pos_le := by decide
  tgt_le := by decide
  mot_legal := by decide
  unset := fun _ => ⟨rfl, rfl⟩

/-- Setting a legal target and steering towards it keeps the invariants of the entry (R130, R150). -/
theorem Channel.Inv.setTarget {ch : Channel} (h : ch.Inv) {t : Level} (ht : t.toNat ≤ 999) :
    Channel.Inv { ch with tgt := t, tv := true, mot := steer t ch.pos } where
  pos_le := h.pos_le
  tgt_le := ht
  mot_legal := steer_ne_both t ch.pos
  unset := nofun

/-- A legal position may be written into an entry at any time (R136). -/
theorem Channel.Inv.setPosition {ch : Channel} (h : ch.Inv) {p : Level} (hp : p.toNat ≤ 999) :
    Channel.Inv { ch with pos := p } :=
  { h with pos_le := hp }

/-! ### The parts of a step -/

theorem zero_lt_nCh (cfg : Config) : (0 : ChIdx).toNat < cfg.nCh :=
  Nat.lt_of_lt_of_le (by decide) (seven_le_nCh cfg)

theorem State.inv_resetOf (cfg : Config) (inputs : List Inputs) : (State.resetOf cfg inputs).Inv where
  entries := by simp
  acc_le := by simp
  rd_legal := .inr (.inr rfl)
  hundreds := fun _ => rfl
  unselected := fun _ => ⟨rfl, rfl⟩
  tens := nofun
  channels := fun ch hch => by
    rw [State.resetOf_chans] at hch
    rw [List.eq_of_mem_replicate hch]
    exact Channel.inv_reset
  sel_lt := zero_lt_nCh cfg
  qch_lt := zero_lt_nCh cfg
  act_ch_lt := zero_lt_nCh cfg
  qpos_le := by simp
  act_tgt_le := by simp

/-- Settles O45, for every item of R33 at the values of R32. -/
theorem resetMeetsTheInvariants : Obligations.ResetMeetsTheInvariants := State.inv_resetOf

namespace State.Inv

variable {s : State}

/-- The block is specified from every state that meets R33 (D28). -/
theorem specified (h : s.Inv) : s.specified = true := by
  have rd_ne : s.rd ≠ 3 := by rcases h.rd_legal with e | e | e <;> rw [e] <;> decide
  exact (State.specified_iff s).2
    ⟨h.entries, h.acc_le, rd_ne, h.sel_lt, fun ch hch => ⟨(h.channels ch hch).pos_le, (h.channels ch hch).mot_legal⟩⟩

theorem chan (h : s.Inv) {c : ChIdx} (hc : c.toNat < s.cfg.nCh) : (s.chan c).Inv :=
  h.channels _ (s.chan_mem c (h.entries ▸ hc))

theorem loadAction (h : s.Inv) {a : Action} (hc : a.channel.toNat < s.cfg.nCh) (ht : a.target.toNat ≤ 999) :
    (s.loadAction a).Inv :=
  { h with act_ch_lt := hc, act_tgt_le := ht }

theorem loadAction_none (h : s.Inv) : (s.loadAction .none).Inv :=
  h.loadAction (zero_lt_nCh s.cfg) (by decide)

/-- A query takes a snapshot of a stored position, which is legal (R102). -/
theorem query (h : s.Inv) {c : ChIdx} (hc : c.toNat < s.cfg.nCh) :
    State.Inv { s with qv := true, qch := c, qpos := (s.chan c).pos } :=
  { h with qch_lt := hc, qpos_le := (h.chan hc).pos_le }

/-- A select restarts digit entry in phase PH_H, with the accumulator at 0 (R103). -/
theorem select (h : s.Inv) {c : ChIdx} (hc : c.toNat < s.cfg.nCh) :
    State.Inv { s with sel_v := true, sel := c, acc := 0, rd := 2 } :=
  { h with
    sel_lt := hc
    acc_le := by simp
    rd_legal := .inr (.inr rfl)
    hundreds := fun _ => rfl
    unselected := nofun
    tens := nofun }

/-- After an accepted digit that is not the last the phase is PH_U, or it is PH_T and the accumulator holds that hundreds
digit alone (R105, R106). -/
theorem enterDigit_phase (h : s.Inv) {v : Nat} (hv : v ≤ 9) (hsum : digitSum v s ≤ 999) (hrd : s.rd ≠ 0) :
    (enterDigit v s).rd = 0 ∨
      (enterDigit v s).rd = 1 ∧ (enterDigit v s).acc.toNat % 100 = 0 ∧ (enterDigit v s).acc.toNat ≤ 900 := by
  rcases h.rd_legal with hrd0 | hrd1 | hrd2
  · exact absurd hrd0 hrd
  · exact .inl (by simp [enterDigit, hrd1])
  · have sum_eq : digitSum v s = v * 100 := by simp [digitSum, contribution, h.hundreds hrd2, hrd2]
    rw [enterDigit_acc_toNat hsum, sum_eq]
    exact .inr ⟨by simp [enterDigit, hrd2], by omega, by omega⟩

/-- An accepted digit that is not the last (R105, R106). -/
theorem enterDigit (h : s.Inv) {v : Nat} (hv : v ≤ 9) (hsel : s.sel_v = true) (hsum : digitSum v s ≤ 999)
    (hrd : s.rd ≠ 0) : (enterDigit v s).Inv :=
  have phase := h.enterDigit_phase hv hsum hrd
  { h with
    acc_le := enterDigit_acc_toNat hsum ▸ hsum
    rd_legal := phase.imp_right fun hp => .inl hp.1
    hundreds := by rcases phase with e | ⟨e, -⟩ <;> simp [e]
    unselected := by simp [Machine.enterDigit, hsel]
    tens := by
      rcases phase with e | ⟨-, htens⟩
      · simp [e]
      · exact fun _ => htens }

/-- The completing digit makes its sum the accumulator and the target of the selected channel (R107). -/
theorem completeMove (h : s.Inv) {v : Nat} (hsel : s.sel_v = true) (hrd : s.rd = 0) (hsum : s.acc.toNat + v ≤ 999) :
    (completeMove v s).Inv :=
  have target_le : (completedTarget v s).toNat ≤ 999 := completedTarget_toNat hsum ▸ hsum
  { h with
    entries := by simp [Machine.completeMove, h.entries]
    acc_le := target_le
    hundreds := by simp [Machine.completeMove, hrd]
    unselected := by simp [Machine.completeMove, hsel]
    tens := by simp [Machine.completeMove, hrd]
    channels := fun ch hch => by
      rw [Machine.completeMove, setTarget_chans] at hch
      rcases List.mem_or_eq_of_mem_set hch with hold | rfl
      · exact h.channels ch hold
      · exact (h.chan h.sel_lt).setTarget target_le }

theorem waitCycle (h : s.Inv) (inp : Inputs) : (waitCycle inp s).Inv :=
  have handshake : (handshake inp s).Inv := { h with }
  handshake.loadAction_none

/-- The end of a cycle writes at most a legal position into one entry (R136, R138). -/
theorem endCycle (h : s.Inv) (inp : Inputs) : (endCycle inp s).Inv where
  entries := by simpa using h.entries
  acc_le := by simpa using h.acc_le
  rd_legal := by simpa using h.rd_legal
  hundreds := by simpa using h.hundreds
  unselected := by simpa using h.unselected
  tens := by simpa using h.tens
  channels := fun ch hch => by
    obtain ⟨old, hold, rfl | ⟨hp, rfl⟩⟩ := positionWrite_mem h.entries hch
    · exact h.channels ch hold
    · exact (h.channels old hold).setPosition hp
  sel_lt := by simpa using h.sel_lt
  qch_lt := by simpa using h.qch_lt
  act_ch_lt := by simpa using h.act_ch_lt
  qpos_le := by simpa using h.qpos_le
  act_tgt_le := by simpa using h.act_tgt_le

/-- Every token keeps the invariants of R33. -/
theorem exec (h : s.Inv) {i : Instr} {t : State} (ht : exec i s = .next t) : t.Inv := by
  obtain ⟨-, rfl | ⟨c, -, hc, rfl⟩ | ⟨c, -, hc, rfl⟩ | ⟨v, -, hv, hsel, hsum, hrd, rfl⟩ |
    ⟨v, -, -, hsel, hrd, hsum, rfl⟩⟩ := exec_next ht
  · exact h.loadAction_none
  · exact (h.query hc).loadAction hc (Nat.zero_le _)
  · exact (h.select hc).loadAction hc (Nat.zero_le _)
  · exact (h.enterDigit hv hsel hsum hrd).loadAction_none
  · exact (h.completeMove hsel hrd hsum).loadAction h.sel_lt (completedTarget_toNat hsum ▸ hsum)

/-- Every clock edge keeps the invariants of R33. -/
theorem step (h : s.Inv) {t : State} (ht : step s = .next t) : t.Inv := by
  rcases step_cases ht with ⟨-, rfl⟩ | ⟨-, -, -, e, he, rfl⟩ | ⟨-, -, -, rfl⟩
  · exact State.inv_resetOf _ _
  · exact (h.exec he).endCycle _
  · exact (h.waitCycle _).endCycle _

end State.Inv

/-- Settles O46: case by case of what a clock edge can do. -/
theorem stepKeepsTheInvariants : Obligations.StepKeepsTheInvariants := fun _ _ h ht => h.step ht

/-! ### Runs -/

/-- A run from a state that meets R33 never stops and stays within R33. -/
theorem State.Inv.run : ∀ (n : Nat) {s : State}, s.Inv → ∃ t, Sys2Proof.core.run n s = .next t ∧ t.Inv
  | 0, s, h => ⟨s, run_zero s, h⟩
  | n + 1, s, h => by
    obtain ⟨s', hs'⟩ := step_completes h.specified
    rw [run_succ_of_next hs']
    exact State.Inv.run n (h.step hs')

/-- Settles O48: the run starts within the invariants and every step keeps them. -/
theorem everyRunFromResetMeetsTheInvariants : Obligations.EveryRunFromResetMeetsTheInvariants :=
  fun cfg inputs n => (State.inv_resetOf cfg inputs).run n

end Sys2Proof.Machine

/-! Targets, valid bits and action registers are read by nothing (R26, R27, R110, R140, R179): two states that agree on
everything else agree on it after every part of a step. -/

namespace Sys2Proof.Machine

/-- The two states show the same action on the action registers (R179). -/
def SameAction (t v : State) : Prop := t.act = v.act ∧ t.act_ch = v.act_ch ∧ t.act_tgt = v.act_tgt

/-- Where the outcome `o` is a next state, so is `o'`; the two agree on everything that is read and show the same
action. -/
def Follows (o o' : Host.Outcome State Fault Refusal) : Prop :=
  ∀ t, o = .next t → ∃ v, o' = .next v ∧ SameButUnread t v ∧ SameAction t v

theorem follows_next {t v : State} (h : SameButUnread t v) (ha : SameAction t v) : Follows (.next t) (.next v) := by
  rintro _ ⟨⟩
  exact ⟨v, rfl, h, ha⟩

theorem SameButUnread.refl (s : State) : SameButUnread s s :=
  ⟨⟨rfl, rfl, rfl, rfl, rfl, rfl, rfl, rfl, rfl⟩, rfl, rfl⟩

/-! ### What is read of the registry -/

theorem State.chan_pos (s : State) (c : ChIdx) : (s.chan c).pos = (s.chans.map Channel.pos).getD c.toNat 0 :=
  (List.getD_map s.chans Channel.reset Channel.pos).symm

theorem State.chan_mot (s : State) (c : ChIdx) : (s.chan c).mot = (s.chans.map Channel.mot).getD c.toNat 0 :=
  (List.getD_map s.chans Channel.reset Channel.mot).symm

namespace SameButUnread

variable {s u : State}

theorem cfg : SameButUnread s u → s.cfg = u.cfg
  | ⟨⟨h, _⟩, _⟩ => h

theorem sel_v : SameButUnread s u → s.sel_v = u.sel_v
  | ⟨⟨_, h, _⟩, _⟩ => h

theorem sel : SameButUnread s u → s.sel = u.sel
  | ⟨⟨_, _, h, _⟩, _⟩ => h

theorem acc : SameButUnread s u → s.acc = u.acc
  | ⟨⟨_, _, _, h, _⟩, _⟩ => h

theorem rd : SameButUnread s u → s.rd = u.rd
  | ⟨⟨_, _, _, _, h, _⟩, _⟩ => h

theorem qv : SameButUnread s u → s.qv = u.qv
  | ⟨⟨_, _, _, _, _, h, _⟩, _⟩ => h

theorem inputs : SameButUnread s u → s.inputs = u.inputs
  | ⟨⟨_, _, _, _, _, _, _, _, h⟩, _⟩ => h

/-- The two states sample the same inputs, so the same byte is offered and it is the same token. -/
theorem sampled (h : SameButUnread s u) : s.sampled = u.sampled := by
  simp only [State.sampled, h.inputs]

theorem fires (h : SameButUnread s u) : s.fires = u.fires := by
  simp only [State.fires, State.inReady, h.sampled, h.qv]

theorem fetched (h : SameButUnread s u) : s.fetched = u.fetched := by
  simp only [State.fetched, h.sampled, h.cfg]

theorem chan_pos (h : SameButUnread s u) (c : ChIdx) : (s.chan c).pos = (u.chan c).pos := by
  obtain ⟨-, hpos, -⟩ := h
  rw [s.chan_pos, u.chan_pos, hpos]

theorem chan_mot (h : SameButUnread s u) (c : ChIdx) : (s.chan c).mot = (u.chan c).mot := by
  obtain ⟨-, -, hmot⟩ := h
  rw [s.chan_mot, u.chan_mot, hmot]

/-- Whether the block is specified from a state does not depend on what is not read. -/
theorem specified (h : SameButUnread s u) (hs : s.specified = true) : u.specified = true := by
  obtain ⟨⟨hcfg, -, hsel, hacc, hrd, -, -, -, -⟩, hpos, hmot⟩ := h
  have hlen : s.chans.length = u.chans.length := by simpa using congrArg List.length hpos
  rw [State.specified_iff] at hs ⊢
  obtain ⟨entries, acc_le, rd_ne, sel_lt, channels⟩ := hs
  refine ⟨hlen ▸ hcfg ▸ entries, hacc ▸ acc_le, hrd ▸ rd_ne, hsel ▸ hcfg ▸ sel_lt, fun ch hch => ⟨?_, ?_⟩⟩
  · obtain ⟨old, hold, e⟩ := List.mem_map.1 (hpos ▸ List.mem_map_of_mem hch)
    exact e ▸ (channels old hold).1
  · obtain ⟨old, hold, e⟩ := List.mem_map.1 (hmot ▸ List.mem_map_of_mem hch)
    exact e ▸ (channels old hold).2

/-! ### The parts of a step -/

theorem setChan (h : SameButUnread s u) (c : ChIdx) {ch ch' : Channel} (hp : ch.pos = ch'.pos) (hm : ch.mot = ch'.mot) :
    SameButUnread (s.setChan c ch) (u.setChan c ch') := by
  obtain ⟨hrest, hpos, hmot⟩ := h
  exact ⟨hrest, by simp [List.map_set, hpos, hp], by simp [List.map_set, hmot, hm]⟩

/-- A target is steered against the stored position, not against the old target (R130, R150). -/
theorem setTarget (h : SameButUnread s u) {c d : ChIdx} {t r : Level} (hc : c = d) (ht : t = r) :
    SameButUnread (setTarget c t s) (setTarget d r u) := by
  subst hc ht
  exact h.setChan c (h.chan_pos c) (congrArg (steer t) (h.chan_pos c))

theorem positionWrite (h : SameButUnread s u) (inp : Inputs) :
    SameButUnread (positionWrite inp s) (positionWrite inp u) := by
  have hcfg := h.cfg
  by_cases hw : inp.writes s.cfg
  · rw [positionWrite_of_writes hw, positionWrite_of_writes (hcfg ▸ hw)]
    exact h.setChan _ rfl (h.chan_mot _)
  · rwa [positionWrite_of_not_writes hw, positionWrite_of_not_writes (hcfg ▸ hw)]

theorem endCycle (h : SameButUnread s u) (inp : Inputs) : SameButUnread (endCycle inp s) (endCycle inp u) := by
  obtain ⟨⟨hcfg, hsel_v, hsel, hacc, hrd, hqv, hqch, hqpos, -⟩, hpos, hmot⟩ := h.positionWrite inp
  exact ⟨⟨hcfg, hsel_v, hsel, hacc, hrd, hqv, hqch, hqpos, congrArg List.tail h.inputs⟩, hpos, hmot⟩

theorem waitCycle (h : SameButUnread s u) (inp : Inputs) : SameButUnread (waitCycle inp s) (waitCycle inp u) := by
  obtain ⟨⟨hcfg, hsel_v, hsel, hacc, hrd, hqv, hqch, hqpos, hinputs⟩, hpos, hmot⟩ := h
  exact ⟨⟨hcfg, hsel_v, hsel, hacc, hrd, by simp [hqv], hqch, hqpos, hinputs⟩, hpos, hmot⟩

theorem guarded (h : SameButUnread s u) {f : State → State} (hf : SameButUnread (f s) (f u))
    (ha : SameAction (f s) (f u)) : Follows (guarded s f) (guarded u f) := by
  intro t ht
  obtain ⟨hs, rfl⟩ := guarded_next_iff.1 ht
  exact ⟨f u, guarded_next_iff.2 ⟨h.specified hs, rfl⟩, hf, ha⟩

/-- A token retires alike where its element writes and its action do not depend on what is not read. -/
theorem retire (h : SameButUnread s u) {f : State → State} {a b : Action} (hf : SameButUnread (f s) (f u))
    (hab : a = b) : Follows (retire s f a) (retire u f b) :=
  hab ▸ h.guarded hf ⟨rfl, rfl, rfl⟩

theorem ignored (h : SameButUnread s u) : Follows (ignored s) (ignored u) := h.retire h rfl

theorem query (h : SameButUnread s u) (c : ChIdx) : Follows (query c s) (query c u) := by
  refine h.retire ?_ rfl
  have hqpos := h.chan_pos c
  obtain ⟨⟨hcfg, hsel_v, hsel, hacc, hrd, -, -, -, hinputs⟩, hpos, hmot⟩ := h
  exact ⟨⟨hcfg, hsel_v, hsel, hacc, hrd, rfl, rfl, hqpos, hinputs⟩, hpos, hmot⟩

theorem select (h : SameButUnread s u) (c : ChIdx) : Follows (select c s) (select c u) := by
  refine h.retire ?_ rfl
  obtain ⟨⟨hcfg, -, -, -, -, hqv, hqch, hqpos, hinputs⟩, hpos, hmot⟩ := h
  exact ⟨⟨hcfg, rfl, rfl, rfl, rfl, hqv, hqch, hqpos, hinputs⟩, hpos, hmot⟩

/-- The decoder may load the accumulator and the digit index alike in both states. -/
theorem setAccRd (h : SameButUnread s u) {a b : Level} {r q : DigitIndex} (hacc : a = b) (hrd : r = q) :
    SameButUnread { s with acc := a, rd := r } { u with acc := b, rd := q } := by
  obtain ⟨⟨hcfg, hsel_v, hsel, -, -, hqv, hqch, hqpos, hinputs⟩, hpos, hmot⟩ := h
  exact ⟨⟨hcfg, hsel_v, hsel, hacc, hrd, hqv, hqch, hqpos, hinputs⟩, hpos, hmot⟩

/-- Which case of R104 to R108 a digit is in, and what it writes, is decided by `sel_v`, `sel`, `acc`, `rd` and the
stored position. -/
theorem digit (h : SameButUnread s u) (v : Nat) : Follows (digit v s) (digit v u) := by
  have hsum : digitSum v s = digitSum v u := by simp only [digitSum, h.acc, h.rd]
  have hmax : passesMax v s = passesMax v u := by rw [passesMax, hsum]; rfl
  have htgt : completedTarget v s = completedTarget v u := by simp only [completedTarget, h.acc]
  unfold Machine.digit
  rw [h.sel_v, hmax, h.rd]
  split_ifs
  · exact h.ignored
  · exact h.ignored
  · exact h.retire (h.setAccRd (by rw [h.acc]) rfl) rfl
  · exact h.retire (h.setAccRd (by rw [h.acc]) rfl) rfl
  · exact h.retire ((h.setAccRd htgt h.rd).setTarget h.sel htgt) (by rw [h.sel, htgt])

theorem exec (h : SameButUnread s u) (i : Instr) : Follows (exec i s) (exec i u) := by
  have hcfg := h.cfg
  by_cases hw : i.wellFormed s.cfg = true
  · rw [exec_of_wellFormed hw, exec_of_wellFormed (hcfg ▸ hw)]
    match i.token with
    | .qry c => exact h.query c
    | .sel c => exact h.select c
    | .dig v => exact h.digit v
    | .ign => exact h.ignored
  · rw [exec_of_not_wellFormed (by simpa using hw), exec_of_not_wellFormed (by simpa [← hcfg] using hw)]
    exact h.ignored

theorem resetCycle (h : SameButUnread s u) : resetCycle s = resetCycle u := by
  simp only [Machine.resetCycle, h.cfg, h.inputs]

theorem consumingCycle (h : SameButUnread s u) : Follows (consumingCycle s) (consumingCycle u) := by
  intro t ht
  obtain ⟨e, he, ht⟩ := onNext_next_iff.1 ht
  obtain ⟨e', he', hsame, hact⟩ := h.exec s.fetched e he
  cases ht
  refine ⟨Machine.endCycle s.sampled e', onNext_next_iff.2 ⟨e', ?_, ?_⟩, hsame.endCycle _, ?_⟩
  · rw [← h.fetched, he']
  · rw [h.sampled]
  · simpa [SameAction] using hact

theorem waitingCycle (h : SameButUnread s u) : Follows (waitingCycle s) (waitingCycle u) := by
  refine h.guarded ?_ (by simp [SameAction])
  rw [h.sampled]
  exact (h.waitCycle _).endCycle _

/-- Which kind of cycle it is does not depend on what is not read, and no kind of cycle reads it. -/
theorem step (h : SameButUnread s u) : Follows (step s) (step u) := by
  unfold Machine.step clockEdge
  rw [h.sampled, h.fires]
  split_ifs
  · rw [h.resetCycle]
    exact follows_next (.refl _) ⟨rfl, rfl, rfl⟩
  · exact h.consumingCycle
  · exact h.waitingCycle

end SameButUnread

/-- Settles O52: the step of the one state is followed by the step of the other, whatever kind of cycle it is. -/
theorem unreadStateInfluencesNothing : Obligations.UnreadStateInfluencesNothing := fun _ _ t h ht => h.step t ht

end Sys2Proof.Machine

/-! Streams of tokens: the token of each byte, what a filler, a select and a digit leave, the target that a select and
three digits make (R53, R78, R79), and how the cycles that deliver a stream follow its tokens (R60 to R62). -/

namespace Sys2Proof.Machine

open Sys2Proof.Laws

/-! ### The token of a byte -/

/-- A byte with a row in the opcode table is that row's token where the block has the row (R81). -/
theorem decodeByte_of_row {cfg : Config} {b : Byte} {i : Instr} (hrow : rowOf b tokenRows = some i)
    (hwf : i.wellFormed cfg = true) : decodeByte cfg b = i := by
  simp [decodeByte, hrow, hwf]

/-- Settles O37: the table look-up finds the row, and no row named has a condition; 0x20 has no row. -/
theorem writtenWordsDecode : Obligations.WrittenWordsDecode := by
  intro cfg
  refine ⟨?_, ?_, ?_, rfl⟩ <;> exact congrArg Except.ok (decodeByte_of_row rfl rfl)

/-- Encoding gives the byte back that was decoded. -/
theorem encodeByte_decodeByte (cfg : Config) (b : Byte) : encodeByte (decodeByte cfg b) = b := by
  unfold decodeByte
  split
  case h_1 i hrow =>
    split_ifs
    · exact rowOf_encode b i hrow
    · rfl
  case h_2 => rfl

/-- A byte decodes to a token that the block has (R77): the 256 bytes under each value of the two parameters. -/
theorem decodeByte_wellFormed (cfg : Config) (b : Byte) : (decodeByte cfg b).wellFormed cfg = true := by
  obtain ⟨n, z⟩ := cfg
  cases n <;> cases z <;> revert b <;> decide +kernel

open EncodeIsToken in
/-- Every token the block has lies in the byte range of its class, with its field. -/
theorem classify_encodeByte : ∀ i : Instr, EncodeIsToken.Statement i
  | .queryA => queryA | .queryB => queryB | .queryC => queryC | .queryD => queryD
  | .queryE => queryE | .queryF => queryF | .queryG => queryG | .queryH => queryH
  | .selectA => selectA | .selectB => selectB | .selectC => selectC | .selectD => selectD
  | .selectE => selectE | .selectF => selectF | .selectG => selectG | .selectH => selectH
  | .digit0 => digit0 | .digit1 => digit1 | .digit2 => digit2 | .digit3 => digit3
  | .digit4 => digit4 | .digit5 => digit5 | .digit6 => digit6 | .digit7 => digit7
  | .digit8 => digit8 | .digit9 => digit9
  | .ignore b => ignore b

/-- The token of a byte has the class and the field that R100 gives the byte. -/
theorem decodeByte_token (cfg : Config) (b : Byte) : (decodeByte cfg b).token = classify cfg b := by
  rw [← classify_encodeByte _ cfg (decodeByte_wellFormed cfg b), encodeByte_decodeByte]

/-- The meaning of a consumed byte, by the class of the byte. -/
theorem exec_decodeByte (s : State) (b : Byte) :
    exec (decodeByte s.cfg b) s = meaningOf (classify s.cfg b) s := by
  rw [exec_of_wellFormed (decodeByte_wellFormed s.cfg b), decodeByte_token]

theorem selectByte_toNat (c : ChIdx) : (selectByte c).toNat = 0x61 + c.toNat := by
  simp [selectByte]; omega

theorem digitByte_toNat {d : Nat} (h : d ≤ 9) : (digitByte d).toNat = 0x30 + d := by
  simp [digitByte]; omega

theorem classify_selectByte {cfg : Config} {c : ChIdx} (h : c.toNat < cfg.nCh) :
    classify cfg (selectByte c) = .sel c := by
  have beyond_queries : isQueryByte cfg (selectByte c) = false := by
    have := nCh_le_eight cfg
    simp [isQueryByte, selectByte_toNat]; omega
  have in_range : isSelectByte cfg (selectByte c) = true := by
    simp [isSelectByte, selectByte_toNat]; omega
  simp [classify, beyond_queries, in_range, selectByte_toNat]

theorem classify_digitByte {cfg : Config} {d : Nat} (h : legalDigit cfg d = true) :
    classify cfg (digitByte d) = .dig d := by
  obtain ⟨hd, hzero⟩ : d ≤ 9 ∧ (0 < d ∨ cfg.zero_is_digit = true) := by simpa [legalDigit] using h
  have below_queries : isQueryByte cfg (digitByte d) = false := by
    simp [isQueryByte, digitByte_toNat hd]; omega
  have below_selects : isSelectByte cfg (digitByte d) = false := by
    simp [isSelectByte, digitByte_toNat hd]; omega
  have in_range : isDigitByte cfg (digitByte d) = true := by
    simp only [isDigitByte, digitByte_toNat hd, decide_eq_true_eq]
    rcases hzero with hpos | hz
    · exact .inl (by omega)
    · by_cases hpos : 0 < d
      · exact .inl (by omega)
      · exact .inr ⟨by omega, hz⟩
  simp [classify, below_queries, below_selects, in_range, digitByte_toNat hd]

theorem legalDigit_le_nine {cfg : Config} {d : Nat} (h : legalDigit cfg d = true) : d ≤ 9 := by
  simp [legalDigit] at h
  exact h.1

/-- Only a query byte is a query token (R72). -/
theorem classify_of_isQueryByte {cfg : Config} {b : Byte} (h : isQueryByte cfg b = true) :
    ∃ c, classify cfg b = .qry c := by
  simp [classify, h]

theorem classify_ne_qry {cfg : Config} {b : Byte} (h : isQueryByte cfg b = false) (c : ChIdx) :
    classify cfg b ≠ .qry c := by
  simp only [classify, h, Bool.false_eq_true, if_false]
  split_ifs <;> exact nofun

/-- What may stand between the digits of a move is a query or ignored (R79). -/
theorem classify_of_isFiller {cfg : Config} {b : Byte} (h : isFiller cfg b = true) :
    (∃ c, classify cfg b = .qry c) ∨ classify cfg b = .ign := by
  obtain ⟨hsel, hdig⟩ : isSelectByte cfg b = false ∧ isDigitByte cfg b = false := by simpa [isFiller] using h
  by_cases hq : isQueryByte cfg b = true
  · exact .inl (classify_of_isQueryByte hq)
  · exact .inr (by simp [classify, hq, hsel, hdig])

/-! ### What a token leaves, by its class -/

/-- A filler leaves the decoder registers and the registry alone (R109, R115). -/
theorem filler_keeps {s t : State} {b : Byte} (h : isFiller s.cfg b = true)
    (ht : meaningOf (classify s.cfg b) s = .next t) : SameDecoderAndRegistry s t := by
  rcases classify_of_isFiller h with ⟨c, hc⟩ | hign
  · rw [hc] at ht
    obtain ⟨-, rfl⟩ := query_next_iff.1 ht
    exact ⟨rfl, rfl, rfl, rfl, rfl, rfl⟩
  · rw [hign] at ht
    obtain ⟨-, rfl⟩ := ignored_next_iff.1 ht
    exact ⟨rfl, rfl, rfl, rfl, rfl, rfl⟩

/-- A digit that is not the last and whose sum is within range (R105, R106). -/
theorem digit_enters {v : Nat} {s t : State} (h : digit v s = .next t) (hsel : s.sel_v = true)
    (hsum : digitSum v s ≤ 999) (hrd : s.rd ≠ 0) : t = (enterDigit v s).loadAction .none := by
  obtain ⟨-, ⟨-, hno | hover⟩ | ⟨-, -, -, ht⟩ | ⟨-, hrd0, -, -⟩⟩ := digit_next h
  · simp [hsel] at hno
  · omega
  · exact ht
  · exact absurd hrd0 hrd

/-- A digit in phase PH_U whose sum is within range (R107). -/
theorem digit_completes_move {v : Nat} {s t : State} (h : digit v s = .next t) (hsel : s.sel_v = true)
    (hrd : s.rd = 0) (hsum : s.acc.toNat + v ≤ 999) :
    t = (completeMove v s).loadAction (.move s.sel (completedTarget v s)) := by
  have sum_eq : digitSum v s = s.acc.toNat + v := by simp [digitSum, contribution, hrd]
  obtain ⟨-, ⟨-, hno | hover⟩ | ⟨-, -, hrd0, -⟩ | ⟨-, -, -, ht⟩⟩ := digit_next h
  · simp [hsel] at hno
  · omega
  · exact absurd hrd hrd0
  · exact ht

/-- The channel moved, after the completing digit (R107, R130). -/
theorem completeMove_chan_sel (v : Nat) {s : State} (h : s.specified = true) :
    (completeMove v s).chan s.sel =
      { pos := (s.chan s.sel).pos, tgt := completedTarget v s, tv := true,
        mot := steer (completedTarget v s) (s.chan s.sel).pos } := by
  obtain ⟨hlen, -, -, hsel, -⟩ := (State.specified_iff s).1 h
  exact setTarget_chan_same _ _ _ (hlen ▸ hsel)

/-- Every other channel, after the completing digit (R155). -/
theorem completeMove_chan_other (v : Nat) {s : State} {c : ChIdx} (h : c ≠ s.sel) :
    (completeMove v s).chan c = s.chan c :=
  setTarget_chan_other _ _ _ _ h

/-! ### The edge with a position write -/

/-- A token shown as a query took its snapshot before the edge (R61, R102). -/
theorem exec_query_snapshot {i : Instr} {s t : State} (h : exec i s = .next t) (hact : t.act = 2) :
    t.qpos = (s.chan t.act_ch).pos := by
  obtain ⟨-, rfl | ⟨c, -, -, rfl⟩ | ⟨c, -, -, rfl⟩ | ⟨v, -, -, -, -, -, rfl⟩ | ⟨v, -, -, -, -, -, rfl⟩⟩ := exec_next h
  case inr.inl => rfl
  all_goals simp [Action.code] at hact

/-- A token shown as a move steered against the position held before the edge (R61, R107). -/
theorem exec_move_steers {i : Instr} {s t : State} (h : exec i s = .next t) (hact : t.act = 3) :
    (t.chan t.act_ch).mot = steer t.act_tgt (s.chan t.act_ch).pos := by
  obtain ⟨hs, rfl | ⟨c, -, -, rfl⟩ | ⟨c, -, -, rfl⟩ | ⟨v, -, -, -, -, -, rfl⟩ | ⟨v, -, -, -, -, -, rfl⟩⟩ := exec_next h
  case inr.inr.inr.inr => exact congrArg Channel.mot (completeMove_chan_sel v hs)
  all_goals simp [Action.code] at hact

/-- The end of a cycle leaves the lines alone (R137). -/
theorem endCycle_chan_mot (inp : Inputs) (s : State) (c : ChIdx) :
    ((endCycle inp s).chan c).mot = (s.chan c).mot := by
  obtain ⟨-, -, hmot⟩ := positionWrite_rest inp s c
  exact hmot

/-- A position write in range is stored (R136). -/
theorem endCycle_chan_pos {inp : Inputs} {s : State} (h : s.specified = true) (hw : inp.writes s.cfg) :
    ((endCycle inp s).chan inp.pos_wr_ch).pos = inp.pos_wr_data := by
  obtain ⟨hlen, -⟩ := (State.specified_iff s).1 h
  have hlt : inp.pos_wr_ch.toNat < s.chans.length := hlen ▸ hw.2.1
  change ((positionWrite inp s).chan inp.pos_wr_ch).pos = _
  rw [positionWrite_of_writes hw, State.setChan_chan_same _ _ _ hlt]

/-- Settles O21: the token reads the state before the edge, and the end of the cycle writes the position over what the
token left. -/
theorem byteStepReadsBeforeThePositionWrite : Obligations.ByteStepReadsBeforeThePositionWrite := by
  intro s t h hrst
  rcases step_cases h with ⟨hreset, -⟩ | ⟨-, -, -, e, he, rfl⟩ | ⟨-, -, hs, rfl⟩
  · simp [hrst] at hreset
  · obtain ⟨hcfg, -⟩ := exec_keeps_cfg he
    refine ⟨fun hact => ?_, fun hact => ?_, fun hen hch hdata => ?_⟩
    · simp only [endCycle_act, endCycle_qpos, endCycle_act_ch] at hact ⊢
      exact exec_query_snapshot he hact
    · simp only [endCycle_act, endCycle_act_ch, endCycle_act_tgt] at hact ⊢
      rw [endCycle_chan_mot, exec_move_steers he hact]
    · exact endCycle_chan_pos (exec_keeps_specified he) ⟨hen, hcfg ▸ hch, hdata⟩
  · refine ⟨by simp, by simp, fun hen hch hdata => ?_⟩
    exact endCycle_chan_pos (waitCycle_keeps_specified hs) ⟨hen, hch, hdata⟩

/-! ### Streams at the token level -/

theorem consume_append (v w : List Byte) (s : State) : consume (v ++ w) s = onNext (consume v s) (consume w) := by
  induction v generalizing s with
  | nil => rfl
  | cons b v ih =>
    simp only [List.cons_append, consume]
    cases exec (decodeByte s.cfg b) s with
    | next t => exact ih t
    | fault r => rfl
    | refused r => rfl

/-- The tokens of `w` lead from `s` to a state that meets `P`. -/
def Consumes (w : List Byte) (s : State) (P : State → Prop) : Prop := ∃ t, consume w s = .next t ∧ P t

namespace Consumes

variable {b : Byte} {v w : List Byte} {s : State} {P Q : State → Prop}

theorem nil (h : P s) : Consumes [] s P := ⟨s, rfl, h⟩

/-- From a specified state the first token answers a specified state; the rest goes on from there. -/
theorem cons (hs : s.specified = true)
    (h : ∀ t, meaningOf (classify s.cfg b) s = .next t → t.specified = true → Consumes w t P) :
    Consumes (b :: w) s P := by
  obtain ⟨t, ht⟩ := exec_completes (decodeByte s.cfg b) s hs
  obtain ⟨u, hu, hP⟩ := h t (exec_decodeByte s b ▸ ht) (exec_keeps_specified ht)
  exact ⟨u, onNext_next_iff.2 ⟨t, ht, hu⟩, hP⟩

theorem append (hv : Consumes v s P) (hw : ∀ t, P t → Consumes w t Q) : Consumes (v ++ w) s Q := by
  obtain ⟨t, ht, hP⟩ := hv
  obtain ⟨u, hu, hQ⟩ := hw t hP
  exact ⟨u, by rw [consume_append, ht]; exact hu, hQ⟩

end Consumes

/-- The block is in digit entry on channel `c` at digit index `r`, with `a` accumulated, over the parameters and the
registry of `s`. -/
structure Entering (s : State) (c : ChIdx) (a : Nat) (r : DigitIndex) (t : State) : Prop where
  specified : t.specified = true
  cfg : t.cfg = s.cfg
  chans : t.chans = s.chans
  sel_v : t.sel_v = true
  sel : t.sel = c
  acc : t.acc.toNat = a
  rd : t.rd = r

namespace Entering

variable {s t : State} {c : ChIdx} {a d : Nat} {r : DigitIndex} {w : List Byte}

/-- Fillers keep the partial entry (R79, R115). -/
theorem fillers (h : Entering s c a r t) (hw : ∀ b ∈ w, isFiller s.cfg b = true) :
    Consumes w t (Entering s c a r) := by
  induction w generalizing t with
  | nil => exact .nil h
  | cons b w ih =>
    obtain ⟨hb, hw⟩ := List.forall_mem_cons.1 hw
    refine .cons h.specified fun u hu hsu => ih ?_ hw
    obtain ⟨hcfg, hsel_v, hsel, hacc, hrd, hchans⟩ := filler_keeps (h.cfg ▸ hb) hu
    exact ⟨hsu, hcfg ▸ h.cfg, hchans ▸ h.chans, hsel_v ▸ h.sel_v, hsel ▸ h.sel, hacc ▸ h.acc, hrd ▸ h.rd⟩

/-- A select starts digit entry in phase PH_H (R103). -/
theorem select (hs : s.specified = true) (hc : c.toNat < s.cfg.nCh) (hw : ∀ b ∈ w, isFiller s.cfg b = true) :
    Consumes (selectByte c :: w) s (Entering s c 0 2) := by
  refine .cons hs fun u hu hsu => ?_
  rw [classify_selectByte hc] at hu
  obtain ⟨-, rfl⟩ := select_next_iff.1 hu
  exact fillers ⟨hsu, rfl, rfl, rfl, rfl, rfl, rfl⟩ hw

/-- A digit that is not the last adds its weighted value and steps the digit index down (R78). -/
theorem digit (h : Entering s c a r t) (hd : legalDigit s.cfg d = true) (hr : r ≠ 0) (hsum : a + contribution d r ≤ 999)
    (hw : ∀ b ∈ w, isFiller s.cfg b = true) :
    Consumes (digitByte d :: w) t (Entering s c (a + contribution d r) (r - 1)) := by
  refine .cons h.specified fun u hu hsu => ?_
  rw [h.cfg, classify_digitByte hd] at hu
  have sum_eq : digitSum d t = a + contribution d r := by rw [digitSum, h.acc, h.rd]
  obtain rfl := digit_enters hu h.sel_v (sum_eq ▸ hsum) (h.rd ▸ hr)
  have hacc : (enterDigit d t).acc.toNat = a + contribution d r := by
    rw [enterDigit_acc_toNat (sum_eq ▸ hsum), sum_eq]
  exact fillers ⟨hsu, h.cfg, h.chans, h.sel_v, h.sel, hacc, congrArg (· - 1) h.rd⟩ hw

/-- A select and two digits, with fillers after each, leave the units digit to come (R53, R78, R79). -/
theorem hundreds_tens {d1 d2 : Nat} {w1 w2 w3 : List Byte} (hs : s.specified = true) (hc : c.toNat < s.cfg.nCh)
    (hd1 : legalDigit s.cfg d1 = true) (hd2 : legalDigit s.cfg d2 = true) (hw1 : ∀ b ∈ w1, isFiller s.cfg b = true)
    (hw2 : ∀ b ∈ w2, isFiller s.cfg b = true) (hw3 : ∀ b ∈ w3, isFiller s.cfg b = true) :
    Consumes (selectByte c :: w1 ++ digitByte d1 :: w2 ++ digitByte d2 :: w3) s
      (Entering s c (100 * d1 + 10 * d2) 0) := by
  have d1_le := legalDigit_le_nine hd1
  have d2_le := legalDigit_le_nine hd2
  have hundreds : 0 + contribution d1 2 = 100 * d1 := by simp [contribution]; omega
  have tens : 100 * d1 + contribution d2 (2 - 1) = 100 * d1 + 10 * d2 := by simp [contribution]; omega
  have after_hundreds := (select hs hc hw1).append fun _ h => hundreds ▸ h.digit hd1 (by decide) (by omega) hw2
  exact after_hundreds.append fun _ h => tens ▸ h.digit hd2 (by decide) (by omega) hw3

/-- The units digit completes the move (R107). -/
theorem units (h : Entering s c a 0 t) (hd : legalDigit s.cfg d = true) (hsum : a + d ≤ 999) :
    Consumes [digitByte d] t (· = (completeMove d t).loadAction (.move t.sel (completedTarget d t))) := by
  refine .cons h.specified fun u hu _ => .nil ?_
  rw [h.cfg, classify_digitByte hd] at hu
  exact digit_completes_move hu h.sel_v h.rd (h.acc ▸ hsum)

end Entering

/-- Settles O42: the select and the first two digits leave `100 * d1 + 10 * d2` entered over the old registry, and the
units digit completes the move. -/
theorem threeDigitsMakeTheTarget : Obligations.ThreeDigitsMakeTheTarget := by
  intro s c d1 d2 d3 w1 w2 w3 hs hlegal hw
  obtain ⟨⟨⟨hc, hd1⟩, hd2⟩, hd3⟩ : ((c.toNat < s.cfg.nCh ∧ legalDigit s.cfg d1 = true) ∧ legalDigit s.cfg d2 = true) ∧
      legalDigit s.cfg d3 = true := by
    simpa [PseudoCommand.legal] using hlegal
  obtain ⟨⟨hw1, hw2⟩, hw3⟩ : ((∀ b ∈ w1, isFiller s.cfg b = true) ∧ ∀ b ∈ w2, isFiller s.cfg b = true) ∧
      ∀ b ∈ w3, isFiller s.cfg b = true := by
    simpa only [List.forall_mem_append] using hw
  have sum_le : 100 * d1 + 10 * d2 + d3 ≤ 999 := by
    have d1_le := legalDigit_le_nine hd1
    have d2_le := legalDigit_le_nine hd2
    have d3_le := legalDigit_le_nine hd3
    omega
  have entered := Entering.hundreds_tens hs hc hd1 hd2 hw1 hw2 hw3
  obtain ⟨t, ht, e, he, rfl⟩ : Consumes _ s (fun t => ∃ e, Entering s c (100 * d1 + 10 * d2) 0 e ∧
      t = (completeMove d3 e).loadAction (.move e.sel (completedTarget d3 e))) :=
    entered.append fun e he => (he.units hd3 sum_le).imp fun t ht => ⟨ht.1, e, he, ht.2⟩
  have acc_eq : (completedTarget d3 e).toNat = 100 * d1 + 10 * d2 + d3 := by
    rw [completedTarget_toNat (he.acc ▸ sum_le), he.acc]
  have chan_eq (c' : ChIdx) : e.chan c' = s.chan c' := State.chan_congr he.chans c'
  have sel_eq := he.sel
  refine ⟨_, ht, acc_eq, acc_eq ▸ sum_le, he.sel_v, he.sel, he.rd, rfl, he.sel, rfl, ?_, fun c' hc' => ?_⟩
  · rw [← chan_eq, ← sel_eq]
    exact completeMove_chan_sel d3 he.specified
  · rw [← chan_eq]
    exact completeMove_chan_other d3 (sel_eq ▸ hc')

/-! ### A stream delivered in cycles -/

/-- What the token level speaks of (R60): the decoder registers, the registry and the query snapshot; the pending bit,
the action registers and the inputs still to come are blanked. -/
def State.tokenView (s : State) : State := { s with qv := false, act := 0, act_ch := 0, act_tgt := 0, inputs := [] }

theorem State.same_of_tokenView {s u : State} (h : s.tokenView = u.tokenView) :
    SameDecoderAndRegistry s u ∧ s.qch = u.qch ∧ s.qpos = u.qpos := by
  simp only [tokenView, State.mk.injEq] at h
  obtain ⟨hcfg, hsel_v, hsel, hacc, hrd, hchans, -, hqch, hqpos, -⟩ := h
  exact ⟨⟨hcfg, hsel_v, hsel, hacc, hrd, hchans⟩, hqch, hqpos⟩

theorem State.cfg_of_tokenView {s u : State} (h : s.tokenView = u.tokenView) : s.cfg = u.cfg :=
  show s.tokenView.cfg = u.tokenView.cfg from congrArg State.cfg h

/-- Whether the block is specified from a state is decided by what the token level speaks of (D28). -/
theorem State.specified_of_tokenView {s u : State} (h : s.tokenView = u.tokenView) : s.specified = u.specified :=
  show s.tokenView.specified = u.tokenView.specified from congrArg State.specified h

/-- Where the outcome `o` is a next state, `o'` is one with the same token view. -/
def FollowsInView (o o' : Host.Outcome State Fault Refusal) : Prop :=
  ∀ t, o = .next t → ∃ e, o' = .next e ∧ e.tokenView = t.tokenView

/-- Where the element writes of a token look only at what the token level speaks of, so does the token. -/
theorem retire_tokenView {s : State} {f : State → State} {a b : Action}
    (hf : (f s.tokenView).tokenView = (f s).tokenView) : FollowsInView (retire s f a) (retire s.tokenView f b) := by
  intro t h
  obtain ⟨hs, rfl⟩ := retire_next_iff.1 h
  exact ⟨_, retire_next_iff.2 ⟨hs, rfl⟩, hf⟩

theorem FollowsInView.ite {p q : Prop} [Decidable p] [Decidable q] {o₁ o₂ o₁' o₂' : Host.Outcome State Fault Refusal}
    (hc : p ↔ q) (h₁ : FollowsInView o₁ o₁') (h₂ : FollowsInView o₂ o₂') :
    FollowsInView (if p then o₁ else o₂) (if q then o₁' else o₂') := by
  by_cases hp : p
  · rwa [if_pos hp, if_pos (hc.1 hp)]
  · rwa [if_neg hp, if_neg (hp ∘ hc.2)]

/-- Which case of R104 to R108 a digit is in is decided by what the token level speaks of. -/
theorem digit_tokenView (v : Nat) (s : State) : FollowsInView (digit v s) (digit v s.tokenView) := by
  refine .ite Iff.rfl ?_ (.ite Iff.rfl ?_ (.ite Iff.rfl ?_ (.ite Iff.rfl ?_ ?_))) <;> (apply retire_tokenView; rfl)

/-- A token reads and writes nothing but what the token level speaks of, the pending bit of a query set aside. -/
theorem meaningOf_tokenView (tok : Token) (s : State) : FollowsInView (meaningOf tok s) (meaningOf tok s.tokenView) := by
  cases tok with
  | dig v => exact digit_tokenView v s
  | _ => apply retire_tokenView; rfl

/-- The same byte leads states of one token view to states of one token view. -/
theorem exec_same_tokenView {s u t v : State} {b : Byte} (h : s.tokenView = u.tokenView)
    (ht : exec (decodeByte s.cfg b) s = .next t) (hv : exec (decodeByte u.cfg b) u = .next v) :
    t.tokenView = v.tokenView := by
  rw [exec_decodeByte] at ht hv
  obtain ⟨e, he, het⟩ := meaningOf_tokenView _ s t ht
  obtain ⟨e', he', hev⟩ := meaningOf_tokenView _ u v hv
  rw [State.cfg_of_tokenView h, h, he'] at he
  cases he
  rw [← het, hev]

/-- A consumed query byte leaves a query pending (R102). -/
theorem exec_query_pending {s t : State} {b : Byte} (hb : isQueryByte s.cfg b = true)
    (h : exec (decodeByte s.cfg b) s = .next t) : t.qv = true := by
  obtain ⟨c, hc⟩ := classify_of_isQueryByte hb
  rw [exec_decodeByte, hc] at h
  obtain ⟨-, rfl⟩ := query_next_iff.1 h
  rfl

/-- No other byte touches the pending bit (R29). -/
theorem exec_keeps_qv {s t : State} {b : Byte} (hb : isQueryByte s.cfg b = false)
    (h : exec (decodeByte s.cfg b) s = .next t) : t.qv = s.qv := by
  have not_query := classify_ne_qry hb
  rw [exec_decodeByte] at h
  generalize classify s.cfg b = tok at h not_query
  cases tok with
  | qry c => exact absurd rfl (not_query c)
  | sel c =>
    obtain ⟨-, rfl⟩ := select_next_iff.1 h
    rfl
  | dig v =>
    obtain ⟨-, ⟨rfl, -⟩ | ⟨-, -, -, rfl⟩ | ⟨-, -, -, rfl⟩⟩ := digit_next h <;> rfl
  | ign =>
    obtain ⟨-, rfl⟩ := ignored_next_iff.1 h
    rfl

/-- A cycle without a position write ends by passing to the next cycle's inputs. -/
theorem endCycle_of_no_write {inp : Inputs} (s : State) (h : inp.pos_wr_en = false) :
    endCycle inp s = { s with inputs := s.inputs.tail } := by
  have no_write : ¬ inp.writes s.cfg := fun hw => by simp [hw.1] at h
  rw [endCycle, positionWrite_of_not_writes no_write]

/-- A byte offered while no query is pending is consumed (R173). -/
theorem step_of_offer {s e : State} {b : Byte} {rest : List Inputs} (hin : s.inputs = offer b :: rest)
    (hqv : s.qv = false) (he : exec (decodeByte s.cfg b) s = .next e) : step s = .next { e with inputs := rest } := by
  have hsampled : s.sampled = offer b := by simp [State.sampled, hin]
  have fires : s.fires = true := by simp [State.fires, State.inReady, hsampled, hqv, offer, Inputs.idle]
  have next_inputs : e.inputs.tail = rest := by rw [(exec_keeps_cfg he).2, hin]; rfl
  rw [step_of_fires fires, consumingCycle, onNext_next_iff]
  refine ⟨e, by rw [State.fetched, hsampled]; exact he, ?_⟩
  rw [hsampled, endCycle_of_no_write e rfl, next_inputs]

/-- The reporter's acceptance clears the pending bit and loads NONE (R177, R179). -/
theorem step_of_accept {s : State} {rest : List Inputs} (hs : s.specified = true) (hin : s.inputs = accept :: rest) :
    step s = .next { s.loadAction .none with qv := false, inputs := rest } := by
  have hsampled : s.sampled = accept := by simp [State.sampled, hin]
  have waits : s.fires = false := by simp [State.fires, hsampled, accept, Inputs.idle]
  rw [step_of_waits (by rw [hsampled]; rfl) waits, waitingCycle, guarded_next_iff, hsampled,
    endCycle_of_no_write _ rfl]
  refine ⟨hs, ?_⟩
  simp [waitCycle, handshake, State.loadAction, accept, hin]

theorem run_add_of_next {m n : Nat} {s t : State} (h : Sys2Proof.core.run m s = .next t) :
    Sys2Proof.core.run (m + n) s = Sys2Proof.core.run n t := by
  induction m generalizing s with
  | zero =>
    cases h
    rw [Nat.zero_add]
  | succ m ih =>
    obtain ⟨s', hs', hrun⟩ := step_of_run h
    rw [Nat.succ_add, run_succ_of_next hs', ih hrun]

theorem schedule_cons (cfg : Config) (b : Byte) (w : List Byte) :
    schedule cfg (b :: w) = schedule cfg [b] ++ schedule cfg w := by
  simp only [schedule]
  split_ifs <;> rfl

/-- The cycles that deliver one byte have the effect of its token and leave no query pending. -/
theorem run_schedule_byte {s e : State} {b : Byte} {rest : List Inputs} (hqv : s.qv = false)
    (hin : s.inputs = schedule s.cfg [b] ++ rest) (he : exec (decodeByte s.cfg b) s = .next e) :
    ∃ t, Sys2Proof.core.run (schedule s.cfg [b]).length s = .next t ∧ t.tokenView = e.tokenView ∧ t.qv = false ∧
      t.inputs = rest := by
  by_cases hb : isQueryByte s.cfg b = true
  · have two_cycles : schedule s.cfg [b] = [offer b, accept] := by simp [schedule, hb]
    rw [two_cycles] at hin ⊢
    have offered := step_of_offer hin hqv he
    exact ⟨_, (run_succ_of_next offered).trans (run_succ_of_next (step_of_accept (step_gives_specified offered) rfl)),
      rfl, rfl, rfl⟩
  · replace hb : isQueryByte s.cfg b = false := by simpa using hb
    have one_cycle : schedule s.cfg [b] = [offer b] := by simp [schedule, hb]
    rw [one_cycle] at hin ⊢
    exact ⟨_, run_succ_of_next (step_of_offer hin hqv he), rfl, (exec_keeps_qv hb he).trans hqv, rfl⟩

/-- From two states of one token view, the tokens of a stream at the one and its delivery at the other lead to states of
one token view (R60, R62). -/
theorem run_schedule (w : List Byte) {s u : State} {rest : List Inputs} (hview : s.tokenView = u.tokenView)
    (hs : s.specified = true) (hqv : u.qv = false) (hin : u.inputs = schedule u.cfg w ++ rest) :
    ∃ t v, consume w s = .next t ∧ Sys2Proof.core.run (schedule u.cfg w).length u = .next v ∧
      t.tokenView = v.tokenView ∧ v.qv = false ∧ v.inputs = rest := by
  induction w generalizing s u with
  | nil => exact ⟨s, u, rfl, rfl, hview, hqv, hin⟩
  | cons b w ih =>
    obtain ⟨s', hs'⟩ := exec_completes (decodeByte s.cfg b) s hs
    obtain ⟨e, he⟩ := exec_completes (decodeByte u.cfg b) u (State.specified_of_tokenView hview ▸ hs)
    rw [schedule_cons, List.append_assoc] at hin
    obtain ⟨u', hrun, hview', hqv', hin'⟩ := run_schedule_byte hqv hin he
    have same_view : s'.tokenView = u'.tokenView := (exec_same_tokenView hview hs' he).trans hview'.symm
    have same_cfg : u'.cfg = u.cfg := (State.cfg_of_tokenView hview').trans (exec_keeps_cfg he).1
    obtain ⟨t, v, ht, hv, hfinal⟩ := ih same_view (exec_keeps_specified hs') hqv' (same_cfg ▸ hin')
    refine ⟨t, v, onNext_next_iff.2 ⟨s', hs', ht⟩, ?_, hfinal⟩
    rw [schedule_cons, List.length_append, run_add_of_next hrun, ← same_cfg, hv]

/-- Settles O51: one state's tokens against its own cycles, by induction over the stream. -/
theorem runOfAStreamIsTheTokenLevel : Obligations.RunOfAStreamIsTheTokenLevel := by
  intro s w rest hs hqv hin
  obtain ⟨t, u, ht, hu, hview, hqv', hin'⟩ := run_schedule w rfl hs hqv hin
  obtain ⟨hsame, hqch, hqpos⟩ := State.same_of_tokenView hview
  exact ⟨t, u, ht, hu, hsame, hqch, hqpos, hqv', hin'⟩

end Sys2Proof.Machine

/-! The encoding: decoding and encoding are inverse to each other on the tokens a block has (R70, R76, R77), a row the
block lacks is IGNORE (R81), the byte classes are disjoint (R75), and no byte or other input stops the block (R77). -/

namespace Sys2Proof.Machine

/-! ### Decoding and encoding -/

/-- IGNORE alone is of class IGN, and its operand is its byte (R76). -/
theorem eq_ignore_of_token {i : Instr} (h : i.token = .ign) : i = .ignore (encodeByte i) := by
  cases i
  case ignore b => rfl
  all_goals exact nomatch h

/-- Every other token is found in the opcode table by its byte. -/
theorem rowOf_encodeByte {i : Instr} (h : i.token ≠ .ign) : rowOf (encodeByte i) tokenRows = some i := by
  cases i
  case ignore b => exact absurd rfl h
  all_goals rfl

/-- The byte of a token that the block has decodes to that token. A token with a row is found in the table; for IGNORE
no row can claim the byte, since the decoded token has the class that R100 gives the byte. -/
theorem decodeByte_encodeByte {cfg : Config} {i : Instr} (h : i.wellFormed cfg = true) :
    decodeByte cfg (encodeByte i) = i := by
  by_cases hign : i.token = .ign
  · have decoded_ign : (decodeByte cfg (encodeByte i)).token = .ign := by
      rw [decodeByte_token, classify_encodeByte i cfg h, hign]
    calc decodeByte cfg (encodeByte i)
        = .ignore (encodeByte (decodeByte cfg (encodeByte i))) := eq_ignore_of_token decoded_ign
      _ = .ignore (encodeByte i) := by rw [encodeByte_decodeByte]
      _ = i := (eq_ignore_of_token hign).symm
  · exact decodeByte_of_row (rowOf_encodeByte hign) h

/-- Settles O33: a token is one byte, and that byte decodes to the token. -/
theorem decodeOfEncodeIsTheToken : Obligations.DecodeOfEncodeIsTheToken :=
  fun _ _ h => congrArg Except.ok (decodeByte_encodeByte h)

/-- Settles O34: the token is the one that the table look-up answers. -/
theorem everyByteIsOneToken : Obligations.EveryByteIsOneToken := fun cfg b =>
  ⟨decodeByte cfg b, rfl, decodeByte_wellFormed cfg b, congrArg (fun x => [x]) (encodeByte_decodeByte cfg b)⟩

/-! ### No input stops the block -/

/-- Settles O47: a state within R33 is one the block is specified from, so the step completes, and it stays within R33. -/
theorem noInputStopsTheBlock : Obligations.NoInputStopsTheBlock := by
  intro s h
  obtain ⟨t, ht⟩ := step_completes h.specified
  rw [ht]
  exact h.step ht

/-! ### Rows the block lacks -/

/-- The byte of a row whose condition fails is ignored (R81). -/
theorem decodeByte_encodeByte_of_absent {cfg : Config} {i : Instr} (hrow : i.token ≠ .ign)
    (habsent : i.wellFormed cfg = false) : decodeByte cfg (encodeByte i) = .ignore (encodeByte i) := by
  simp [decodeByte, rowOf_encodeByte hrow, habsent]

/-- Settles O11: all three rows stand in the table, and each acts as IGNORE where its condition fails. -/
theorem absentRowActsAsIgnore : Obligations.AbsentRowActsAsIgnore := by
  intro i hi s hs habsent
  have all_rows : ∀ j ∈ [Instr.queryH, Instr.selectH, Instr.digit0], j.token ≠ .ign := by decide
  refine ⟨?_, decodeByte_encodeByte_of_absent (all_rows i hi) habsent⟩
  rw [exec_of_not_wellFormed habsent]
  exact ignored_next_iff.2 ⟨hs, rfl⟩

/-! ### The action registers -/

/-- Settles O15, action by action of R82's table. -/
theorem actionCodesAreAsTabled : Obligations.ActionCodesAreAsTabled := fun _ _ _ => ⟨rfl, rfl, rfl, rfl⟩

/-! ### The byte classes -/

/-- A query byte is one of the at most eight capitals from `'A'` (R72). -/
theorem range_of_isQueryByte {cfg : Config} {b : Byte} (h : isQueryByte cfg b = true) :
    0x41 ≤ b.toNat ∧ b.toNat ≤ 0x48 := by
  have := nCh_le_eight cfg
  simp only [isQueryByte, decide_eq_true_eq] at h
  omega

/-- A select byte is one of the at most eight small letters from `'a'` (R73). -/
theorem range_of_isSelectByte {cfg : Config} {b : Byte} (h : isSelectByte cfg b = true) :
    0x61 ≤ b.toNat ∧ b.toNat ≤ 0x68 := by
  have := nCh_le_eight cfg
  simp only [isSelectByte, decide_eq_true_eq] at h
  omega

/-- A digit byte is one of the ten decimal digits (R74). -/
theorem range_of_isDigitByte {cfg : Config} {b : Byte} (h : isDigitByte cfg b = true) :
    0x30 ≤ b.toNat ∧ b.toNat ≤ 0x39 := by
  simp only [isDigitByte, decide_eq_true_eq] at h
  omega

/-- Settles O36: under every value of the parameters the classes stay within three ranges that do not meet. -/
theorem byteClassesAreDisjoint : Obligations.ByteClassesAreDisjoint := by
  intro cfg b
  refine ⟨fun ⟨hq, hs⟩ => ?_, fun ⟨hq, hd⟩ => ?_, fun ⟨hs, hd⟩ => ?_⟩
  · have query_range := range_of_isQueryByte hq
    have select_range := range_of_isSelectByte hs
    omega
  · have query_range := range_of_isQueryByte hq
    have digit_range := range_of_isDigitByte hd
    omega
  · have select_range := range_of_isSelectByte hs
    have digit_range := range_of_isDigitByte hd
    omega

end Sys2Proof.Machine

/-! The command decoder: what each row of the opcode table does (R102 to R109), its transition table (R111, R112), and
how long a partial entry lives (R113 to R116). -/

namespace Sys2Proof.Machine

/-! ### The rows of the opcode table -/

theorem token_of_queryRow : ∀ p ∈ queryRows, p.1.token = .qry p.2 := by decide

theorem token_of_selectRow : ∀ p ∈ selectRows, p.1.token = .sel p.2 := by decide

theorem token_of_digitRow : ∀ p ∈ digitRows, p.1.token = .dig p.2 := by decide

/-- A token of class SEL is one of the eight rows (R103). -/
theorem mem_selectRows {i : Instr} {c : ChIdx} (h : i.token = .sel c) : (i, c) ∈ selectRows := by
  cases i <;> cases h <;> decide

theorem nCh_seven {cfg : Config} (h : cfg.n_ch ≠ .eight) : cfg.nCh = 7 := by
  unfold Config.nCh
  cases hn : cfg.n_ch with
  | seven => rfl
  | eight => exact absurd hn h

/-- The block has the row of every channel below `N_CH` (R72, R73). -/
theorem wellFormed_of_channel_lt {i : Instr} {cfg : Config} {c : ChIdx} (ht : i.token = .qry c ∨ i.token = .sel c)
    (hc : c.toNat < cfg.nCh) : i.wellFormed cfg = true := by
  have eight_of_last : (7 : ChIdx).toNat < cfg.nCh → cfg.n_ch = .eight := fun h7 => by
    by_contra hn
    simp [nCh_seven hn] at h7
  cases i
  case queryH | selectH =>
    have last : c = 7 := by simpa [Instr.token, eq_comm] using ht
    exact decide_eq_true (eight_of_last (last ▸ hc))
  case digit0 | ignore => simp [Instr.token] at ht
  all_goals rfl

/-- A letter beyond the alphabet is ignored (R72, R73, R81). -/
theorem decodeByte_encodeByte_of_beyond {i : Instr} {cfg : Config} {c : ChIdx}
    (ht : i.token = .qry c ∨ i.token = .sel c) (hc : cfg.nCh ≤ c.toNat) :
    decodeByte cfg (encodeByte i) = .ignore (encodeByte i) := by
  have absent : i.wellFormed cfg = false := by
    by_contra hwf
    have := channel_lt_of_wellFormed (by simpa using hwf) ht
    omega
  exact decodeByte_encodeByte_of_absent (by rcases ht with h | h <;> simp [h]) absent

/-! ### Queries and selects -/

/-- Settles O3: the row's meaning is the query of its channel, and a cycle with a query pending is one that consumes no
byte. -/
theorem queryLoadsTheQueryBuffer : Obligations.QueryLoadsTheQueryBuffer := by
  refine ⟨fun p hp s hs => ⟨?_, fun hc => ?_, fun hc => ?_⟩, fun s t hqv hrst h => ?_⟩
  · revert p; decide
  · have ht := token_of_queryRow p hp
    rw [exec_of_wellFormed (wellFormed_of_channel_lt (.inl ht) hc), ht]
    exact query_next_iff.2 ⟨hs, rfl⟩
  · exact decodeByte_encodeByte_of_beyond (.inl (token_of_queryRow p hp)) hc
  · have not_ready : s.fires = false := by simp [State.fires, State.inReady, hqv]
    rcases step_cases h with ⟨hreset, -⟩ | ⟨-, -, hno, -⟩ | ⟨-, -, -, rfl⟩
    · simp [hrst] at hreset
    · simp [hqv] at hno
    · simp [not_ready, hqv]

/-- Settles O4: the row's meaning is the select of its channel. -/
theorem selectRestartsDigitEntry : Obligations.SelectRestartsDigitEntry := by
  refine fun p hp s hs => ⟨?_, fun hc => ?_, fun hc => ?_⟩
  · revert p; decide
  · have ht := token_of_selectRow p hp
    rw [exec_of_wellFormed (wellFormed_of_channel_lt (.inr ht) hc), ht]
    exact select_next_iff.2 ⟨hs, rfl⟩
  · exact decodeByte_encodeByte_of_beyond (.inr (token_of_selectRow p hp)) hc

/-! ### Digits -/

theorem digitSum_of_hundreds {v : Nat} {s : State} (h : s.rd = 2) : digitSum v s = s.acc.toNat + 100 * v := by
  simp [digitSum, contribution, h, Nat.mul_comm]

theorem digitSum_of_tens {v : Nat} {s : State} (h : s.rd = 1) : digitSum v s = s.acc.toNat + 10 * v := by
  simp [digitSum, contribution, h, Nat.mul_comm]

theorem digitSum_of_units {v : Nat} {s : State} (h : s.rd = 0) : digitSum v s = s.acc.toNat + v := by
  simp [digitSum, contribution, h]

/-- The block's own digit row answers a next state, the one its value gives. -/
theorem exec_digitRow {p : Instr × Nat} {s : State} (hp : p ∈ digitRows) (hs : s.specified = true)
    (hwf : p.1.wellFormed s.cfg = true) : ∃ t, exec p.1 s = .next t ∧ digit p.2 s = .next t := by
  obtain ⟨t, ht⟩ := exec_completes p.1 s hs
  refine ⟨t, ht, ?_⟩
  rwa [exec_of_wellFormed hwf, token_of_digitRow p hp] at ht

/-- A digit is ignored with no channel selected (R108) and where its sum passes 999 (R104). -/
theorem digit_ignored {v : Nat} {s t : State} (h : digit v s = .next t)
    (hno : s.sel_v = false ∨ 999 < digitSum v s) : t = s.loadAction .none := by
  obtain ⟨-, ⟨ht, -⟩ | ⟨hsel, hsum, -, -⟩ | ⟨hsel, hrd, hsum, -⟩⟩ := digit_next h
  · exact ht
  · exact absurd hno (by simp [hsel, hsum])
  · exact absurd hno (by simp [hsel, digitSum_of_units hrd, hsum])

/-- Settles O8: the two cases of a digit other than the completing one. -/
theorem digitAddsItsWeightedValue : Obligations.DigitAddsItsWeightedValue := by
  intro p hp s hs hwf hsel
  obtain ⟨t, ht, hdigit⟩ := exec_digitRow hp hs hwf
  rw [ht]
  exact ⟨fun hover => congrArg _ (digit_ignored hdigit (.inr hover)),
    fun hsum hrd => congrArg _ (digit_enters hdigit hsel hsum hrd)⟩

/-- Settles O5: the digit at index 2 over an empty accumulator. -/
theorem hundredsDigitIsWeightedHundred : Obligations.HundredsDigitIsWeightedHundred := by
  intro p hp s hs hwf hsel hrd hacc
  have value_le := digit_le_nine (token_of_digitRow p hp)
  have sum_eq : s.acc.toNat + p.2 * 10 ^ s.rd.toNat = 100 * p.2 :=
    (digitSum_of_hundreds hrd).trans (by simp [hacc])
  obtain ⟨-, enters⟩ := digitAddsItsWeightedValue p hp s hs hwf hsel
  rw [sum_eq, hrd] at enters
  exact ⟨enters (by omega) (by decide), by omega⟩

/-- Settles O6: the digit at index 1. -/
theorem tensDigitIsWeightedTen : Obligations.TensDigitIsWeightedTen := by
  intro p hp s hs hwf hsel hrd hacc
  have value_le := digit_le_nine (token_of_digitRow p hp)
  have sum_eq : s.acc.toNat + p.2 * 10 ^ s.rd.toNat = s.acc.toNat + 10 * p.2 := digitSum_of_tens hrd
  obtain ⟨-, enters⟩ := digitAddsItsWeightedValue p hp s hs hwf hsel
  rw [sum_eq, hrd] at enters
  exact ⟨enters (by omega) (by decide), by omega⟩

/-- Settles O7: within range the digit completes the move; past 999 it is ignored, and a digit is at most 9. -/
theorem unitsDigitCompletesTheMove : Obligations.UnitsDigitCompletesTheMove := by
  intro p hp s hs hwf hsel hrd
  obtain ⟨t, ht, hdigit⟩ := exec_digitRow hp hs hwf
  rw [ht]
  refine ⟨fun hsum => congrArg _ (digit_completes_move hdigit hsel hrd hsum), fun hover => ⟨?_, ?_⟩⟩
  · exact congrArg _ (digit_ignored hdigit (.inr (digitSum_of_units hrd ▸ hover)))
  · have value_le := digit_le_nine (token_of_digitRow p hp)
    omega

/-- A token leaves the selection alone, or it is a select, whose channel is then selected (R108). -/
theorem exec_selection {i : Instr} {s t : State} (h : exec i s = .next t) :
    (t.sel_v = s.sel_v ∧ t.sel = s.sel) ∨ ∃ c, i.token = .sel c ∧ t.sel_v = true ∧ t.sel = c := by
  obtain ⟨-, rfl | ⟨c, -, -, rfl⟩ | ⟨c, hsel, -, rfl⟩ | ⟨v, -, -, -, -, -, rfl⟩ | ⟨v, -, -, -, -, -, rfl⟩⟩ :=
    exec_next h
  case inr.inr.inl => exact .inr ⟨c, hsel, rfl, rfl⟩
  all_goals exact .inl ⟨rfl, rfl⟩

/-- Settles O9: a digit row is ignored whether the block has it or not, and among tokens and cycles only a select and a
reset write the selection. -/
theorem digitWithoutSelectionIsIgnored : Obligations.DigitWithoutSelectionIsIgnored := by
  refine ⟨fun p hp s hs hno => ?_, fun i s t h hno hsel => ?_, fun s t h hsel hno => ?_⟩
  · by_cases hwf : p.1.wellFormed s.cfg = true
    · obtain ⟨t, ht, hdigit⟩ := exec_digitRow hp hs hwf
      rw [ht, digit_ignored hdigit (.inl hno)]
      rfl
    · rw [exec_of_not_wellFormed (by simpa using hwf)]
      exact ignored_next_iff.2 ⟨hs, rfl⟩
  · rcases exec_selection h with ⟨hkept, -⟩ | ⟨c, htoken, -, hc⟩
    · simp [hkept, hno] at hsel
    · exact ⟨(i, c), mem_selectRows htoken, rfl, hc⟩
  · rcases step_cases h with ⟨hreset, -⟩ | ⟨-, -, -, e, he, rfl⟩ | ⟨-, -, -, rfl⟩
    · exact hreset
    · rcases exec_selection he with ⟨hkept, -⟩ | ⟨c, -, htrue, -⟩
      · simp [hkept, hsel] at hno
      · simp [htrue] at hno
    · simp [hsel] at hno

/-! ### Ignored bytes -/

/-- Settles O35: the decoded token is one the block has, and such a token lies in the byte range of its class. -/
theorem decodeAgreesWithClassify : Obligations.DecodeAgreesWithClassify := decodeByte_token

/-- A byte of class IGN decodes to IGNORE of that byte. -/
theorem decodeByte_of_ign {cfg : Config} {b : Byte} (h : classify cfg b = .ign) : decodeByte cfg b = .ignore b := by
  have decoded := eq_ignore_of_token ((decodeByte_token cfg b).trans h)
  rwa [encodeByte_decodeByte] at decoded

/-- No class has a byte from 0x80 (R72 to R74). -/
theorem classify_of_high {cfg : Config} {b : Byte} (h : 0x80 ≤ b.toNat) : classify cfg b = .ign := by
  have not_query : ¬ isQueryByte cfg b = true := fun hq => by have := range_of_isQueryByte hq; omega
  have not_select : ¬ isSelectByte cfg b = true := fun hs => by have := range_of_isSelectByte hs; omega
  have not_digit : ¬ isDigitByte cfg b = true := fun hd => by have := range_of_isDigitByte hd; omega
  simp [classify, not_query, not_select, not_digit]

theorem State.phase_congr {s u : State} (hsel_v : s.sel_v = u.sel_v) (hrd : s.rd = u.rd) : s.phase = u.phase := by
  simp only [State.phase, hsel_v, hrd]

/-- Settles O10: the token is IGNORE, which loads NONE and writes nothing else, and the end of the cycle writes at most
a position. -/
theorem ignoredByteHasNoEffect : Obligations.IgnoredByteHasNoEffect := by
  refine ⟨fun b s hs => ?_, fun b cfg => decodeByte_of_ign, fun cfg hz => ?_, fun cfg hn => ?_,
    fun cfg b => classify_of_high, fun s t hfires hign h => ?_⟩
  · exact ignored_next_iff.2 ⟨hs, rfl⟩
  · obtain ⟨n, z⟩ := cfg
    cases hz
    cases n <;> decide
  · obtain ⟨n, z⟩ := cfg
    cases hn
    cases z <;> decide
  · rw [step_of_fires hfires, consumingCycle, onNext_next_iff] at h
    obtain ⟨e, he, ht⟩ := h
    cases ht
    rw [State.fetched, exec_decodeByte, hign] at he
    obtain ⟨-, rfl⟩ := ignored_next_iff.1 he
    have no_query : s.qv = false := by simp [State.fires, State.inReady] at hfires; exact hfires.2.2
    exact ⟨State.phase_congr (by simp) (by simp), by simpa using no_query, by simp [Action.code], by simp⟩

/-! ### The token step of the spec -/

/-- What the meaning of a consumed byte answers is what `feed` gives, with its action loaded (R111). -/
theorem eq_feed_of_meaning {s t : State} {b : Byte} (h : meaningOf (classify s.cfg b) s = .next t) :
    t = (feed s b).1.loadAction (feed s b).2 := by
  unfold feed
  generalize classify s.cfg b = tok at h
  cases tok with
  | qry c => exact (query_next_iff.1 h).2
  | sel c => exact (select_next_iff.1 h).2
  | ign => exact (ignored_next_iff.1 h).2
  | dig v =>
    dsimp only
    split_ifs with hno hover hrd
    · exact digit_ignored h (.inl hno)
    · exact digit_ignored h (.inr hover)
    · have sum_eq : s.acc.toNat + v * 10 ^ s.rd.toNat = s.acc.toNat + v := digitSum_of_units hrd
      rw [sum_eq] at hover ⊢
      exact digit_completes_move h (by simpa using hno) hrd (by omega)
    · exact digit_enters h (by simpa using hno) (Nat.le_of_not_lt hover) hrd

/-- Settles O38, class by class. -/
theorem tokenMeaningIsFeed : Obligations.TokenMeaningIsFeed := by
  intro s b hs
  obtain ⟨t, ht⟩ := exec_completes (decodeByte s.cfg b) s hs
  rw [exec_decodeByte] at ht ⊢
  rw [ht, eq_feed_of_meaning ht]

/-! ### The transition table -/

theorem State.phase_eq_nosel_iff {s : State} : s.phase = .nosel ↔ s.sel_v = false := by
  unfold State.phase
  split_ifs <;> simp_all

theorem State.phase_eq_hundreds_iff {s : State} : s.phase = .hundreds ↔ s.sel_v = true ∧ s.rd = 2 := by
  unfold State.phase
  split_ifs <;> simp_all

theorem State.phase_eq_tens_iff {s : State} : s.phase = .tens ↔ s.sel_v = true ∧ s.rd = 1 := by
  unfold State.phase
  split_ifs <;> simp_all

/-- The phase PH_U, where `rd = 3` is excluded (D28). -/
theorem State.phase_eq_units_iff {s : State} (h : s.specified = true) :
    s.phase = .units ↔ s.sel_v = true ∧ s.rd = 0 := by
  obtain ⟨-, -, hrd, -, -⟩ := (State.specified_iff s).1 h
  have only_zero : ∀ r : DigitIndex, r ≠ 3 → r ≠ 2 → r ≠ 1 → r = 0 := by decide
  have := only_zero s.rd hrd
  unfold State.phase
  split_ifs <;> simp_all

/-- The column DIG of the transition table, phase by phase. -/
theorem digit_follows_table {s t : State} {v : Nat} (h : s.Inv) (hv : v ≤ 9) (ht : digit v s = .next t)
    (htspec : t.specified = true) :
    (s.phase = .nosel → t.phase = .nosel ∧ t.act = 0) ∧
    (s.phase = .hundreds → t.phase = .tens ∧ t.act = 0 ∧ t.acc.toNat = 100 * v) ∧
    (s.phase = .tens → t.phase = .units ∧ t.act = 0 ∧ t.acc.toNat = s.acc.toNat + 10 * v) ∧
    (s.phase = .units → s.acc.toNat + v ≤ 999 →
      t.phase = .units ∧ t.act = 3 ∧ t.act_ch = s.sel ∧ t.act_tgt = t.acc ∧ t.acc.toNat = s.acc.toNat + v) ∧
    (s.phase = .units → 999 < s.acc.toNat + v → t.phase = .units ∧ t.act = 0 ∧ t.acc = s.acc) := by
  rw [State.phase_eq_nosel_iff (s := s), State.phase_eq_hundreds_iff (s := s), State.phase_eq_tens_iff (s := s),
    State.phase_eq_units_iff h.specified]
  refine ⟨fun hno => ?_, fun ⟨hsel, hrd⟩ => ?_, fun ⟨hsel, hrd⟩ => ?_, fun ⟨hsel, hrd⟩ hsum => ?_,
    fun ⟨hsel, hrd⟩ hover => ?_⟩
  · obtain rfl := digit_ignored ht (.inl hno)
    exact ⟨State.phase_eq_nosel_iff.2 hno, rfl⟩
  · have sum_eq : digitSum v s = 100 * v := by simp [digitSum_of_hundreds hrd, h.hundreds hrd]
    have in_range : digitSum v s ≤ 999 := by omega
    obtain rfl := digit_enters ht hsel in_range (by rw [hrd]; decide)
    exact ⟨State.phase_eq_tens_iff.2 ⟨hsel, congrArg (· - 1) hrd⟩, rfl, sum_eq ▸ enterDigit_acc_toNat in_range⟩
  · obtain ⟨-, acc_le⟩ := h.tens hrd
    have sum_eq : digitSum v s = s.acc.toNat + 10 * v := digitSum_of_tens hrd
    have in_range : digitSum v s ≤ 999 := by omega
    obtain rfl := digit_enters ht hsel in_range (by rw [hrd]; decide)
    exact ⟨(State.phase_eq_units_iff htspec).2 ⟨hsel, congrArg (· - 1) hrd⟩, rfl,
      sum_eq ▸ enterDigit_acc_toNat in_range⟩
  · obtain rfl := digit_completes_move ht hsel hrd hsum
    exact ⟨(State.phase_eq_units_iff htspec).2 ⟨hsel, hrd⟩, rfl, rfl, rfl, completedTarget_toNat hsum⟩
  · obtain rfl := digit_ignored ht (.inr (digitSum_of_units hrd ▸ hover))
    exact ⟨(State.phase_eq_units_iff htspec).2 ⟨hsel, hrd⟩, rfl, rfl⟩

/-- Settles O39, column by column. -/
theorem phasesFollowTheTransitionTable : Obligations.PhasesFollowTheTransitionTable := by
  intro s b h
  obtain ⟨t, ht⟩ := exec_completes (decodeByte s.cfg b) s h.specified
  have hmeaning := exec_decodeByte s b ▸ ht
  refine ⟨t, ht, fun c hc => ?_, fun c hc => ?_, fun v hv => ?_, fun hign => ?_⟩
  · rw [hc] at hmeaning
    obtain ⟨-, rfl⟩ := query_next_iff.1 hmeaning
    exact ⟨State.phase_congr rfl rfl, rfl, rfl, rfl⟩
  · rw [hc] at hmeaning
    obtain ⟨-, rfl⟩ := select_next_iff.1 hmeaning
    exact ⟨rfl, rfl, rfl⟩
  · rw [hv] at hmeaning
    exact digit_follows_table h (digit_le_nine ((decodeByte_token s.cfg b).trans hv)) hmeaning
      (exec_keeps_specified ht)
  · rw [hign] at hmeaning
    obtain ⟨-, rfl⟩ := ignored_next_iff.1 hmeaning
    exact ⟨State.phase_congr rfl rfl, rfl⟩

/-! ### A select discards the partial entry -/

theorem isDigitByte_of_classify {cfg : Config} {b : Byte} {v : Nat} (h : classify cfg b = .dig v) :
    isDigitByte cfg b = true := by
  unfold classify at h
  split_ifs at h
  assumption

theorem DigitIndex.toNat_pred : ∀ r : DigitIndex, r ≠ 0 → (r - 1).toNat = r.toNat - 1 := by decide

theorem DigitIndex.toNat_le_two : ∀ r : DigitIndex, r ≠ 3 → r.toNat ≤ 2 := by decide

/-- While no more digits are to come than the digit index counts, a token completes no move, and the same holds of the
tokens after it. -/
theorem exec_before_units {s t : State} {b : Byte} {w : List Byte} (h : exec (decodeByte s.cfg b) s = .next t)
    (hfew : (b :: w).countP (isDigitByte s.cfg) ≤ s.rd.toNat) :
    t.chans = s.chans ∧ w.countP (isDigitByte s.cfg) ≤ t.rd.toNat := by
  have tail_le : w.countP (isDigitByte s.cfg) ≤ s.rd.toNat := by
    rw [List.countP_cons] at hfew
    omega
  have digit_lt {v : Nat} (hv : (decodeByte s.cfg b).token = .dig v) : w.countP (isDigitByte s.cfg) < s.rd.toNat := by
    rw [decodeByte_token] at hv
    rwa [List.countP_cons_of_pos (isDigitByte_of_classify hv)] at hfew
  obtain ⟨hs, rfl | ⟨c, -, -, rfl⟩ | ⟨c, -, -, rfl⟩ | ⟨v, hv, -, -, -, hrd, rfl⟩ | ⟨v, hv, -, -, hrd, -, rfl⟩⟩ :=
    exec_next h
  · exact ⟨rfl, tail_le⟩
  · exact ⟨rfl, tail_le⟩
  · obtain ⟨-, -, rd_ne, -, -⟩ := (State.specified_iff s).1 hs
    exact ⟨rfl, tail_le.trans (DigitIndex.toNat_le_two s.rd rd_ne)⟩
  · refine ⟨rfl, ?_⟩
    change _ ≤ (s.rd - 1).toNat
    rw [DigitIndex.toNat_pred s.rd hrd]
    exact Nat.le_pred_of_lt (digit_lt hv)
  · have := digit_lt hv
    simp [hrd] at this

/-- Any stream completes; with no more digits than the digit index counts it leaves the registry alone. -/
theorem consumes_before_units (w : List Byte) {s : State} (hs : s.specified = true) :
    Consumes w s fun t => t.specified = true ∧ t.cfg = s.cfg ∧
      (w.countP (isDigitByte s.cfg) ≤ s.rd.toNat → t.chans = s.chans) := by
  induction w generalizing s with
  | nil => exact .nil ⟨hs, rfl, fun _ => rfl⟩
  | cons b w ih =>
    refine .cons hs fun u hu hus => ?_
    rw [← exec_decodeByte] at hu
    obtain ⟨hcfg, -⟩ := exec_keeps_cfg hu
    obtain ⟨t, ht, hts, htcfg, hchans⟩ := ih hus
    refine ⟨t, ht, hts, htcfg.trans hcfg, fun hfew => ?_⟩
    obtain ⟨hkept, hrest⟩ := exec_before_units hu hfew
    exact (hchans (hcfg ▸ hrest)).trans hkept

/-- Settles O40: the first select leaves two digits before the units digit, and the last one restarts digit entry over
the registry the stream between left. -/
theorem selectDiscardsThePartialEntry : Obligations.SelectDiscardsThePartialEntry := by
  intro s x y w hs hx hy
  have select {s c} (hs : s.specified = true) (hc : c.toNat < s.cfg.nCh) :
      Consumes [selectByte c] s (Entering s c 0 2) := Entering.select hs hc nofun
  obtain ⟨u, hu, entered⟩ := select hs hy
  have acc_zero {a : Level} (h : a.toNat = 0) : a = 0 := BitVec.eq_of_toNat_eq h
  obtain ⟨t, ht, e, he, hchans⟩ : Consumes (selectByte x :: (w ++ [selectByte y])) s fun t =>
      ∃ e, Entering e y 0 2 t ∧ (w.countP (isDigitByte s.cfg) ≤ 2 → e.chans = s.chans) := by
    refine (select hs hx).append fun a ha => (consumes_before_units w ha.specified).append ?_
    rintro e ⟨hes, hecfg, hechans⟩
    obtain ⟨t, ht, hentered⟩ := select hes (c := y) (by rwa [hecfg, ha.cfg])
    rw [ha.cfg, ha.rd, ha.chans] at hechans
    exact ⟨t, ht, e, hentered, hechans⟩
  refine ⟨t, u, ht, hu, ⟨he.sel_v, he.sel, acc_zero he.acc, he.rd⟩,
    ⟨entered.sel_v, entered.sel, acc_zero entered.acc, entered.rd⟩, fun hfew => ?_⟩
  rw [← List.countP_eq_length_filter] at hfew
  exact he.chans.trans (hchans (Nat.le_of_lt_succ hfew))

/-! ### A query between two streams -/

theorem queryByte_toNat (c : ChIdx) : (queryByte c).toNat = 0x41 + c.toNat := by
  simp [queryByte]; omega

theorem classify_queryByte {cfg : Config} {c : ChIdx} (h : c.toNat < cfg.nCh) :
    classify cfg (queryByte c) = .qry c := by
  have in_range : isQueryByte cfg (queryByte c) = true := by
    simp [isQueryByte, queryByte_toNat]; omega
  simp [classify, in_range, queryByte_toNat]

namespace SameDecoderAndRegistry

variable {s u t v : State}

/-- Whether the block is specified from a state is decided by the decoder registers and the registry (D28). -/
theorem specified (h : SameDecoderAndRegistry s u) (hs : s.specified = true) : u.specified = true := by
  obtain ⟨hcfg, -, hsel, hacc, hrd, hchans⟩ := h
  rw [State.specified_iff] at hs ⊢
  rwa [← hcfg, ← hsel, ← hacc, ← hrd, ← hchans]

theorem digit {d : Nat} (h : SameDecoderAndRegistry s u) (ht : digit d s = .next t) (hv : digit d u = .next v) :
    SameDecoderAndRegistry t v := by
  obtain ⟨hcfg, hsel_v, hsel, hacc, hrd, hchans⟩ := h
  have sum_eq : digitSum d s = digitSum d u := by simp only [digitSum, hacc, hrd]
  have target_eq : completedTarget d s = completedTarget d u := by simp only [completedTarget, hacc]
  obtain ⟨-, ⟨rfl, hno⟩ | ⟨hsel1, hsum, hrd0, rfl⟩ | ⟨hsel1, hrd0, hsum, rfl⟩⟩ := digit_next ht
  · obtain rfl := digit_ignored hv (hsel_v ▸ sum_eq ▸ hno)
    exact ⟨hcfg, hsel_v, hsel, hacc, hrd, hchans⟩
  · obtain rfl := digit_enters hv (hsel_v ▸ hsel1) (sum_eq ▸ hsum) (hrd ▸ hrd0)
    exact ⟨hcfg, hsel_v, hsel, congrArg (BitVec.ofNat 10) sum_eq, congrArg (· - 1) hrd, hchans⟩
  · obtain rfl := digit_completes_move hv (hsel_v ▸ hsel1) (hrd ▸ hrd0) (hacc ▸ hsum)
    refine ⟨hcfg, hsel_v, hsel, target_eq, hrd, ?_⟩
    simp [completeMove, State.chan, target_eq, hsel, hchans]

/-- The same token leads states with the same decoder registers and registry to such states (R115). -/
theorem meaningOf {tok : Token} (h : SameDecoderAndRegistry s u) (ht : meaningOf tok s = .next t)
    (hv : meaningOf tok u = .next v) : SameDecoderAndRegistry t v := by
  cases tok with
  | dig d => exact h.digit ht hv
  | qry c =>
    obtain ⟨-, rfl⟩ := query_next_iff.1 ht
    obtain ⟨-, rfl⟩ := query_next_iff.1 hv
    exact h
  | sel c =>
    obtain ⟨-, rfl⟩ := select_next_iff.1 ht
    obtain ⟨-, rfl⟩ := select_next_iff.1 hv
    obtain ⟨hcfg, -, -, -, -, hchans⟩ := h
    exact ⟨hcfg, rfl, rfl, rfl, rfl, hchans⟩
  | ign =>
    obtain ⟨-, rfl⟩ := ignored_next_iff.1 ht
    obtain ⟨-, rfl⟩ := ignored_next_iff.1 hv
    exact h

theorem consume (w : List Byte) (h : SameDecoderAndRegistry s u) (hs : s.specified = true) :
    Consumes w s fun t => Consumes w u fun v => SameDecoderAndRegistry t v := by
  induction w generalizing s u with
  | nil => exact .nil (.nil h)
  | cons b w ih =>
    refine .cons hs fun t ht hts => ?_
    obtain ⟨v, hv⟩ := exec_completes (decodeByte u.cfg b) u (h.specified hs)
    have same : SameDecoderAndRegistry t v := h.meaningOf ht (by
      obtain ⟨hcfg, -⟩ := h
      rw [hcfg, ← exec_decodeByte, hv])
    obtain ⟨t', ht', v', hv', same'⟩ := ih same hts
    exact ⟨t', ht', v', onNext_next_iff.2 ⟨v, hv, hv'⟩, same'⟩

end SameDecoderAndRegistry

/-- Settles O41: the query keeps decoder and registry, and the tokens after it read nothing else. -/
theorem queryDoesNotDisturbTheDecoder : Obligations.QueryDoesNotDisturbTheDecoder := by
  intro s c X Y hs hc
  obtain ⟨a, ha, has, hacfg, -⟩ := consumes_before_units X hs
  have after_query : Consumes (queryByte c :: Y) a fun t => Consumes Y a fun u => SameDecoderAndRegistry t u := by
    refine .cons has fun q hq hqs => ?_
    rw [classify_queryByte (hacfg ▸ hc)] at hq
    obtain ⟨-, rfl⟩ := query_next_iff.1 hq
    exact SameDecoderAndRegistry.consume Y ⟨rfl, rfl, rfl, rfl, rfl, rfl⟩ hqs
  obtain ⟨t, ht, u, hu, same⟩ := after_query
  exact ⟨t, u, by rw [consume_append, ha]; exact ht, by rw [consume_append, ha]; exact hu, same⟩

/-! ### Carry-over -/

theorem consume_keeps_specified {w : List Byte} {s t : State} (hs : s.specified = true) (h : consume w s = .next t) :
    t.specified = true := by
  obtain ⟨u, hu, hus, -⟩ := consumes_before_units w hs
  cases h.symm.trans hu
  exact hus

/-- After digits carried over from `s` the accumulator holds `a` in phase PH_U, with the selection, the parameters, the
other channels and the stored position of `s`. -/
structure CarriedOver (s : State) (a : Nat) (t : State) : Prop where
  units : Entering t s.sel a 0 t
  cfg : t.cfg = s.cfg
  pos : (t.chan s.sel).pos = (s.chan s.sel).pos
  others : ∀ c, c ≠ s.sel → t.chan c = s.chan c

/-- The accumulator of `t` has just become the target of the channel selected in `s` (R107). -/
def JustMoved (s t : State) : Prop :=
  t.act = 3 ∧ t.act_ch = s.sel ∧ t.act_tgt = t.acc ∧
    t.chan s.sel = { pos := (s.chan s.sel).pos, tgt := t.acc, tv := true, mot := steer t.acc (s.chan s.sel).pos }

namespace CarriedOver

variable {s t : State} {a d : Nat}

/-- One more digit adds its value and moves the channel again (R107, R236). -/
theorem digit (h : CarriedOver s a t) (hd : legalDigit s.cfg d = true) (hsum : a + d ≤ 999) :
    Consumes [digitByte d] t fun u => CarriedOver s (a + d) u ∧ JustMoved s u := by
  have sel_eq := h.units.sel
  obtain ⟨u, hu, rfl⟩ := h.units.units (h.cfg ▸ hd) hsum
  have acc_eq : (completedTarget d t).toNat = a + d := by
    rw [completedTarget_toNat (h.units.acc ▸ hsum), h.units.acc]
  have moved := completeMove_chan_sel d h.units.specified
  rw [sel_eq, h.pos] at moved
  have pos_eq : ((completeMove d t).chan s.sel).pos = (s.chan s.sel).pos := by rw [moved]
  refine ⟨_, hu, ⟨?_, h.cfg, pos_eq, fun c hc => ?_⟩, rfl, sel_eq, rfl, moved⟩
  · exact ⟨consume_keeps_specified h.units.specified hu, rfl, rfl, h.units.sel_v, sel_eq, acc_eq, h.units.rd⟩
  · exact (completeMove_chan_other d (sel_eq ▸ hc)).trans (h.others c hc)

/-- Digits carried over one after the other: the last of them has just moved the channel. -/
theorem digits {ds : List Nat} (h : CarriedOver s a t) (hne : ds ≠ []) (hds : ∀ d ∈ ds, legalDigit s.cfg d = true)
    (hsum : a + ds.sum ≤ 999) :
    Consumes (ds.map digitByte) t fun u => CarriedOver s (a + ds.sum) u ∧ JustMoved s u := by
  induction ds generalizing a t with
  | nil => exact absurd rfl hne
  | cons d ds ih =>
    obtain ⟨hd, hds⟩ := List.forall_mem_cons.1 hds
    rw [List.sum_cons, ← Nat.add_assoc] at hsum ⊢
    have first := h.digit hd (by omega)
    by_cases hlast : ds = []
    · subst hlast
      exact first
    · exact first.append fun u hu => ih hu.1 hlast hds hsum

end CarriedOver

/-- Settles O43: the state itself is the start of the carry-over. -/
theorem carryOverAddsUnits : Obligations.CarryOverAddsUnits := by
  intro s ds hs hsel_v hrd hne hds hsum
  have start : CarriedOver s s.acc.toNat s := ⟨⟨hs, rfl, rfl, hsel_v, rfl, rfl, hrd⟩, rfl, rfl, fun _ _ => rfl⟩
  obtain ⟨t, ht, h, hact, hact_ch, hact_tgt, hchan⟩ := start.digits hne hds hsum
  exact ⟨t, ht, h.units.acc, h.units.rd, h.units.sel, hact, hact_ch, hact_tgt, hchan, h.others⟩

/-! ### A partial entry in time -/

/-- A cycle in which no reset and no digit or select is offered keeps the decoder registers (R114). -/
theorem step_keeps_partial_entry {s t : State} (h : step s = .next t) (hrst : s.sampled.rst = false)
    (hbyte : s.sampled.in_valid = false ∨ isFiller s.cfg s.sampled.in_data = true) :
    t.sel_v = s.sel_v ∧ t.sel = s.sel ∧ t.acc = s.acc ∧ t.rd = s.rd := by
  rcases step_cases h with ⟨hreset, -⟩ | ⟨-, hvalid, -, e, he, rfl⟩ | ⟨-, -, -, rfl⟩
  · simp [hrst] at hreset
  · rcases hbyte with hno | hfiller
    · simp [hvalid] at hno
    · rw [State.fetched, exec_decodeByte] at he
      obtain ⟨-, hsel_v, hsel, hacc, hrd, -⟩ := filler_keeps hfiller he
      simp [hsel_v, hsel, hacc, hrd]
  · simp

/-- What holds of an idle cycle and of the inputs of the next `n + 1` cycles holds of the cycle sampled. -/
theorem sampled_of_forall_take {s : State} {n : Nat} {P : Inputs → Prop} (hidle : P Inputs.idle)
    (h : ∀ inp ∈ s.inputs.take (n + 1), P inp) : P s.sampled := by
  unfold State.sampled
  cases hin : s.inputs with
  | nil => exact hidle
  | cons inp rest => exact h inp (by simp [hin])

/-- Settles O49: cycle by cycle; the parameters, which decide what a digit or a select is, stay as well. -/
theorem partialEntryHasNoTimeLimit : Obligations.PartialEntryHasNoTimeLimit := by
  intro n
  induction n with
  | zero =>
    intro s t _ h
    cases h
    exact ⟨rfl, rfl, rfl, rfl⟩
  | succ n ih =>
    intro s t hinputs h
    obtain ⟨u, hu, hrun⟩ := step_of_run h
    obtain ⟨hcfg, htail⟩ := stepKeepsTheParameters s u hu
    obtain ⟨hrst, hbyte⟩ := sampled_of_forall_take ⟨rfl, .inl rfl⟩ hinputs
    obtain ⟨hsel_v, hsel, hacc, hrd⟩ := step_keeps_partial_entry hu hrst hbyte
    have rest_inputs : u.inputs.take n = (s.inputs.take (n + 1)).tail := by
      rw [htail, List.tail_take_eq_take_tail, Nat.add_sub_cancel]
    have hrest : ∀ inp ∈ u.inputs.take n,
        inp.rst = false ∧ (inp.in_valid = false ∨ isFiller u.cfg inp.in_data = true) := by
      rw [rest_inputs, hcfg]
      exact fun inp hinp => hinputs inp (List.mem_of_mem_tail hinp)
    obtain ⟨hsel_v', hsel', hacc', hrd'⟩ := ih u t hrest hrun
    exact ⟨hsel_v'.trans hsel_v, hsel'.trans hsel, hacc'.trans hacc, hrd'.trans hrd⟩

end Sys2Proof.Machine

/-! The channel registry: what `set_target` writes (R130), what changes a stored position (R136 to R139), and that a
query changes none (R134, R135). -/

namespace Sys2Proof.Machine

/-- Settles O14: by the reads of the channel written and of another; the rest is the frame of a registry write. -/
theorem setTargetWritesOneChannel : Obligations.SetTargetWritesOneChannel := fun c t s hc =>
  ⟨setTarget_chan_same c t s hc, fun c' hne => setTarget_chan_other c c' t s hne, rfl⟩

/-! ### Stored positions -/

/-- A completing digit sets a target and keeps the position it steers against (R130). -/
theorem completeMove_chan_pos (v : Nat) {s : State} (hs : s.specified = true) (c : ChIdx) :
    ((completeMove v s).chan c).pos = (s.chan c).pos := by
  by_cases hc : c = s.sel
  · rw [hc, completeMove_chan_sel v hs]
  · rw [completeMove_chan_other v hc]

/-- No token writes a stored position (R139). -/
theorem exec_keeps_pos {i : Instr} {s t : State} (h : exec i s = .next t) (c : ChIdx) :
    (t.chan c).pos = (s.chan c).pos := by
  obtain ⟨hs, rfl | ⟨_, -, -, rfl⟩ | ⟨_, -, -, rfl⟩ | ⟨v, -, -, -, -, -, rfl⟩ | ⟨v, -, -, -, -, -, rfl⟩⟩ :=
    exec_next h
  case inr.inr.inr.inr => exact completeMove_chan_pos v hs c
  all_goals rfl

/-- A position write leaves every channel but the one on the port alone (R137). -/
theorem positionWrite_chan_other (inp : Inputs) (s : State) {c : ChIdx} (hc : c ≠ inp.pos_wr_ch) :
    (positionWrite inp s).chan c = s.chan c := by
  by_cases hw : inp.writes s.cfg
  · rw [positionWrite_of_writes hw, State.setChan_chan_other _ _ _ _ hc]
  · rw [positionWrite_of_not_writes hw]

/-- The position of a channel at the end of a cycle: the value on the port if that is for the channel and in range
(R136, R138). -/
theorem endCycle_chan_pos_eq {inp : Inputs} {s : State} (hs : s.specified = true) {c : ChIdx}
    (hc : c.toNat < s.cfg.nCh) :
    ((endCycle inp s).chan c).pos =
      if inp.pos_wr_en = true ∧ inp.pos_wr_ch = c ∧ inp.pos_wr_data.toNat ≤ 999 then inp.pos_wr_data
      else (s.chan c).pos := by
  split_ifs with hport
  · obtain ⟨hen, rfl, hdata⟩ := hport
    exact endCycle_chan_pos hs ⟨hen, hc, hdata⟩
  · change ((positionWrite inp s).chan c).pos = _
    by_cases hch : inp.pos_wr_ch = c
    · have no_write : ¬ inp.writes s.cfg := fun ⟨hen, _, hdata⟩ => hport ⟨hen, hch, hdata⟩
      rw [positionWrite_of_not_writes no_write]
    · rw [positionWrite_chan_other inp s (Ne.symm hch)]

/-- Settles O18: reset clears every position; otherwise the cycle before its end keeps them all, and its end is the
port's. -/
theorem positionChangesOnlyThroughThePort : Obligations.PositionChangesOnlyThroughThePort := by
  intro s t h c hc
  rcases step_cases h with ⟨hrst, rfl⟩ | ⟨hrst, -, -, e, he, rfl⟩ | ⟨hrst, -, hs, rfl⟩
  · exact ⟨fun _ => by rw [State.resetOf_chan]; rfl, by simp [hrst]⟩
  · obtain ⟨hcfg, -⟩ := exec_keeps_cfg he
    refine ⟨by simp [hrst], fun _ => ?_⟩
    rw [endCycle_chan_pos_eq (exec_keeps_specified he) (hcfg ▸ hc), exec_keeps_pos he]
  · exact ⟨by simp [hrst], fun _ => endCycle_chan_pos_eq (waitCycle_keeps_specified hs) hc⟩

/-! ### The cycle with and without its position write -/

/-- `s` with the position write of the next cycle not enabled; all else stays. -/
def State.withoutWrite (s : State) : State :=
  { s with inputs := { s.sampled with pos_wr_en := false } :: s.inputs.tail }

/-- What a cycle does before its end does not depend on whether the position write is enabled (R61, R137). -/
theorem step_withoutWrite {s t : State} (hrst : s.sampled.rst = false) (h : step s = .next t) :
    ∃ e, t = endCycle s.sampled e ∧ e.inputs = s.inputs ∧
      step s.withoutWrite = .next { e with inputs := s.inputs.tail } := by
  by_cases hf : s.fires = true
  · rw [step_of_fires hf, consumingCycle, onNext_next_iff] at h
    obtain ⟨e, he, ht⟩ := h
    refine ⟨e, (Host.Outcome.next.inj ht).symm, (exec_keeps_cfg he).2, ?_⟩
    rw [step_of_fires (s := s.withoutWrite) hf, consumingCycle, onNext_next_iff]
    exact ⟨_, exec_with_inputs s.withoutWrite.inputs he, congrArg _ (endCycle_of_no_write _ rfl)⟩
  · replace hf : s.fires = false := by simpa using hf
    rw [step_of_waits hrst hf, waitingCycle, guarded_next_iff] at h
    obtain ⟨hs, ht⟩ := h
    refine ⟨waitCycle s.sampled s, ht, rfl, ?_⟩
    rw [step_of_waits (s := s.withoutWrite) hrst hf, waitingCycle, guarded_next_iff,
      endCycle_of_no_write (inp := s.withoutWrite.sampled) _ rfl]
    exact ⟨hs, rfl⟩

/-- Settles O19: the two cycles differ in the position write at their end. -/
theorem positionWriteChangesOnlyThePosition : Obligations.PositionWriteChangesOnlyThePosition := by
  intro s t inp rest hin hrst h
  obtain rfl : s.sampled = inp := by simp [State.sampled, hin]
  obtain rfl : s.inputs.tail = rest := by rw [hin]; rfl
  obtain ⟨e, rfl, he, hu⟩ := step_withoutWrite hrst h
  refine ⟨_, hu, ?_, fun c hc => positionWrite_chan_other s.sampled e hc, positionWrite_rest s.sampled e⟩
  rw [← he, endCycle, positionWrite_eq]

/-! ### Queries -/

/-- A stream without position writes keeps every stored position (R139). -/
theorem consume_keeps_pos {w : List Byte} {s t : State} (h : consume w s = .next t) (c : ChIdx) :
    (t.chan c).pos = (s.chan c).pos := by
  induction w generalizing s with
  | nil =>
    cases h
    rfl
  | cons b w ih =>
    obtain ⟨u, hu, hw⟩ := onNext_next_iff.1 h
    exact (ih hw).trans (exec_keeps_pos hu c)

/-- A query takes a snapshot of the channel's stored position (R134). -/
theorem query_snapshots {s : State} {c : ChIdx} (hs : s.specified = true) (hc : c.toNat < s.cfg.nCh) :
    Consumes [queryByte c] s fun t => t.qch = c ∧ t.qpos = (s.chan c).pos := by
  refine .cons hs fun t ht _ => .nil ?_
  rw [classify_queryByte hc] at ht
  obtain ⟨-, rfl⟩ := query_next_iff.1 ht
  exact ⟨rfl, rfl⟩

/-- Settles O44: the first query and the stream after it keep the position that the second query takes. -/
theorem queryIsIdempotent : Obligations.QueryIsIdempotent := by
  intro s c w hs hc
  obtain ⟨t, ht, htch, htpos⟩ := query_snapshots hs hc
  obtain ⟨a, ha, has, hacfg, -⟩ := consumes_before_units (queryByte c :: w) hs
  obtain ⟨u, hu, huch, hupos⟩ := query_snapshots has (hacfg ▸ hc)
  refine ⟨t, u, ht, ?_, htpos, ?_, huch, htch⟩
  · rw [← List.cons_append, consume_append, ha]
    exact hu
  · rw [hupos, htpos, consume_keeps_pos ha]

end Sys2Proof.Machine

/-! The motion outputs: the direction decision (R150), the registry entries that a step can write (R156, R159), the
lines (R154) and the output ports (R153, R176). -/

namespace Sys2Proof.Machine

/-! ### The direction decision -/

theorem steer_of_target_lt {t p : Level} (h : t.toNat < p.toNat) : steer t p = 0b01 := if_pos h

theorem steer_of_lt_target {t p : Level} (h : p.toNat < t.toNat) : steer t p = 0b10 :=
  (if_neg (Nat.lt_asymm h)).trans (if_pos h)

theorem steer_self (t : Level) : steer t t = 0b00 :=
  (if_neg (Nat.lt_irrefl _)).trans (if_neg (Nat.lt_irrefl _))

/-- Settles O13: one value of `steer` for each order of target and position. -/
theorem steerFollowsTheOrder : Obligations.SteerFollowsTheOrder := fun t _ =>
  ⟨steer_of_target_lt, steer_of_lt_target, fun h => h ▸ steer_self t⟩

/-! ### Targets, valid bits and lines -/

/-- Of the registry a token writes at most the selected channel, and then it shows the MOVE that it writes (R133,
R159). -/
theorem exec_chan {i : Instr} {s t : State} (h : exec i s = .next t) (c : ChIdx) :
    t.chan c = s.chan c ∨
      (t.act = 3 ∧ t.act_ch = c ∧ c = s.sel ∧
        t.chan c = { pos := (s.chan c).pos, tgt := t.act_tgt, tv := true, mot := steer t.act_tgt (s.chan c).pos }) := by
  obtain ⟨hs, rfl | ⟨_, -, -, rfl⟩ | ⟨_, -, -, rfl⟩ | ⟨v, -, -, -, -, -, rfl⟩ | ⟨v, -, -, -, -, -, rfl⟩⟩ :=
    exec_next h
  case inr.inr.inr.inr =>
    by_cases hc : c = s.sel
    · subst hc
      exact .inr ⟨rfl, rfl, rfl, completeMove_chan_sel v hs⟩
    · exact .inl (completeMove_chan_other v hc)
  all_goals exact .inl rfl

/-- The end of a cycle leaves the target, the valid bit and the lines of every channel alone (R137). -/
theorem endCycle_rest (inp : Inputs) (s : State) (c : ChIdx) :
    ((endCycle inp s).chan c).tgt = (s.chan c).tgt ∧ ((endCycle inp s).chan c).tv = (s.chan c).tv ∧
      ((endCycle inp s).chan c).mot = (s.chan c).mot :=
  positionWrite_rest inp s c

/-- Settles O20: a token writes a registry entry only as the MOVE it shows, and the position write at the end of the
cycle leaves the target, the valid bit and the lines as they are. -/
theorem registryIsWrittenOnlyByMove : Obligations.RegistryIsWrittenOnlyByMove := by
  intro s t h hrst c
  rcases step_cases h with ⟨hreset, -⟩ | ⟨-, -, -, e, he, rfl⟩ | ⟨-, -, -, rfl⟩
  · simp [hrst] at hreset
  · obtain ⟨htgt, htv, hmot⟩ := endCycle_rest s.sampled e c
    rw [endCycle_act, endCycle_act_ch, endCycle_act_tgt, htgt, htv, hmot]
    rcases exec_chan he c with hkept | ⟨hact, hch, hsel, hmove⟩
    · rw [hkept]
      exact ⟨id, fun hchanged => absurd ⟨rfl, rfl, rfl⟩ hchanged⟩
    · rw [hmove]
      exact ⟨fun _ => rfl, fun _ => ⟨hact, hch, hsel, rfl, rfl, rfl⟩⟩
  · obtain ⟨htgt, htv, hmot⟩ := endCycle_rest s.sampled (waitCycle s.sampled s) c
    exact ⟨htv.trans, fun hchanged => absurd ⟨htgt, htv, hmot⟩ hchanged⟩

/-! ### The lines -/

/-- The two lines of a channel whose register is not `0b11` are not both high (R28, R151). -/
theorem Channel.not_both_high {ch : Channel} (h : ch.mot ≠ 0b11) : (ch.up && ch.down) = false := by
  have lines : ∀ m : Lines, m ≠ 0b11 → (m.getLsbD 1 && m.getLsbD 0) = false := by decide
  exact lines ch.mot h

/-- Settles O17: a step leaves a state the block is specified from, and there no line register is `0b11`. -/
theorem linesAreNeverBothHigh : Obligations.LinesAreNeverBothHigh := by
  refine ⟨steer_ne_both, fun s t h ch hch => ?_⟩
  obtain ⟨-, -, -, -, hchans⟩ := (State.specified_iff t).1 (step_gives_specified h)
  exact Channel.not_both_high (hchans ch hch).2

/-! ### The output ports -/

/-- A port with one line for each channel shows at channel `c` the line of the entry read there. -/
theorem State.line_getElem? {s : State} {c : ChIdx} (h : c.toNat < s.chans.length) (line : Channel → Bool) :
    (s.chans.map line)[c.toNat]? = some (line (s.chan c)) := by
  simp [State.chan, List.getD, h]

/-- Settles O16: the lines are those of the registry entries, and every other port is the register itself. -/
theorem outputPortsShowTheRegisters : Obligations.OutputPortsShowTheRegisters :=
  ⟨fun _ _ h => ⟨State.line_getElem? h Channel.up, State.line_getElem? h Channel.down⟩,
    fun _ => ⟨rfl, rfl, rfl, rfl, rfl, rfl, fun hqv => if_pos hqv, fun hqv => if_neg (by simp [hqv])⟩⟩

end Sys2Proof.Machine

/-! The interface cycle: the report (R183), the cycles that consume a byte and those that do not (R173, R180), the byte
handshake (R174, R175), the query handshake (R177, R178, R185), and the spec's own `cycle` (R180). -/

namespace Sys2Proof.Machine

/-! ### The report -/

/-- Settles O22: the digits are those of the decimal expansion of the position. -/
theorem reportSpellsThePosition : Obligations.ReportSpellsThePosition := fun _ p _ =>
  ⟨p.toNat / 100, p.toNat / 10 % 10, p.toNat % 10, by omega, by omega, by omega, by omega, rfl⟩

/-! ### Cycles with and without a byte -/

theorem State.sampled_of_inputs {s : State} {inp : Inputs} {rest : List Inputs} (h : s.inputs = inp :: rest) :
    s.sampled = inp ∧ s.inputs.tail = rest := by
  simp [State.sampled, h]

/-- What a state samples after `k` cycles, when they have passed. -/
theorem State.sampled_of_drop {s t : State} {inp : Inputs} {k : Nat} (hdrop : t.inputs = s.inputs.drop k)
    (hin : s.inputs[k]? = some inp) : t.sampled = inp := by
  simp [State.sampled, hdrop, List.headD_eq_head?_getD, hin]

theorem State.inReady_iff {s : State} : s.inReady = true ↔ s.sampled.rst = false ∧ s.qv = false := by
  simp [State.inReady]

theorem State.fires_iff {s : State} : s.fires = true ↔ s.sampled.in_valid = true ∧ s.inReady = true := by
  simp [State.fires]

/-- No byte offered, or a query pending: the cycle consumes no byte (R173). -/
theorem State.not_fires {s : State} (h : s.sampled.in_valid = false ∨ s.qv = true) : s.fires = false := by
  rcases h with h | h <;> simp [State.fires, State.inReady, h]

/-- A position write does not look at the inputs still to come. -/
theorem positionWrite_with_inputs (inp : Inputs) (s : State) (l : List Inputs) :
    positionWrite inp { s with inputs := l } = { positionWrite inp s with inputs := l } := by
  unfold positionWrite
  split <;> rfl

theorem endCycle_eq_positionWrite (inp : Inputs) (s : State) :
    endCycle inp s = positionWrite inp { s with inputs := s.inputs.tail } :=
  (positionWrite_with_inputs inp s s.inputs.tail).symm

/-- A cycle that consumes a byte: the byte's token, then the position write (R173, R180). -/
theorem step_of_consumed {s : State} (h : s.fires = true) :
    step s = onNext (exec s.fetched s) fun t => .next { positionWrite s.sampled t with inputs := s.inputs.tail } := by
  rw [step_of_fires h, consumingCycle]
  cases he : exec s.fetched s with
  | next e =>
    obtain ⟨-, hinputs⟩ := exec_keeps_cfg he
    simp only [onNext, endCycle, hinputs]
  | fault r => rfl
  | refused r => rfl

/-- A cycle that consumes no byte: the query handshake, NONE and the position write (R177, R179, R180). -/
theorem step_unconsumed_iff {s t : State} (hrst : s.sampled.rst = false) (hno : s.fires = false) :
    step s = .next t ↔ s.specified = true ∧ t = endCycle s.sampled (waitCycle s.sampled s) := by
  rw [step_of_waits hrst hno, waitingCycle, guarded_next_iff]

/-- A cycle that consumes no byte leaves the registry as the position write does. -/
theorem waited_chans (inp : Inputs) (s : State) :
    (endCycle inp (waitCycle inp s)).chans = (positionWrite inp s).chans :=
  positionWrite_chans_congr rfl rfl

/-- Settles O24: the token is the one fetched, so the cycle that consumes the byte runs it. -/
theorem stepRunsTheDecodedToken : Obligations.StepRunsTheDecodedToken := by
  intro s inp rest i hin hrst hvalid hqv hdec
  obtain ⟨rfl, rfl⟩ := State.sampled_of_inputs hin
  cases hdec
  have hfires : s.fires = true := State.fires_iff.2 ⟨hvalid, State.inReady_iff.2 ⟨hrst, hqv⟩⟩
  exact ⟨decodeByte_wellFormed _ _, step_of_consumed hfires⟩

/-- Settles O23: the step by whether the cycle consumes the byte. -/
theorem readyWhenNoResetAndNoPendingQuery : Obligations.ReadyWhenNoResetAndNoPendingQuery := by
  refine ⟨fun _ => rfl, fun s t hvalid hready h => ?_, fun s t hrst hno h => ?_⟩
  · rw [step_of_consumed (State.fires_iff.2 ⟨hvalid, hready⟩), onNext_next_iff] at h
    obtain ⟨e, he, ht⟩ := h
    exact ⟨e, he, (Host.Outcome.next.inj ht).symm⟩
  · obtain ⟨-, rfl⟩ := (step_unconsumed_iff hrst (State.not_fires (.inl hno))).1 h
    exact ⟨by simp, by simp, by simp, by simp, waited_chans s.sampled s, by simp⟩

/-- Settles O25: what the step of such a cycle answers, written out element by element. -/
theorem cycleWithoutByteOnlyHandshakesAndWrites : Obligations.CycleWithoutByteOnlyHandshakesAndWrites := by
  intro s inp rest hs hin hrst hno
  obtain ⟨rfl, rfl⟩ := State.sampled_of_inputs hin
  exact (step_unconsumed_iff hrst (State.not_fires hno)).2 ⟨hs, rfl⟩

/-! ### The same cycle under other inputs -/

/-- `s` with `inp` driven in the next cycle; the cycles after it stay. -/
def State.withSampled (s : State) (inp : Inputs) : State := { s with inputs := inp :: s.inputs.tail }

/-- Of the inputs, a cycle that consumes no byte looks at the reset, the position write and the acceptance of a pending
query. -/
theorem step_withSampled_of_unconsumed {s : State} {inp : Inputs} (hno : s.fires = false)
    (hno' : (s.withSampled inp).fires = false) (hrst : inp.rst = s.sampled.rst)
    (hwrite : positionWrite inp = positionWrite s.sampled) (hquery : handshake inp s = handshake s.sampled s) :
    step (s.withSampled inp) = step s := by
  by_cases hreset : s.sampled.rst = true
  · rw [step_of_rst hreset, step_of_rst (s := s.withSampled inp) (hrst.trans hreset)]
    rfl
  · replace hreset : s.sampled.rst = false := by simpa using hreset
    have same_end : endCycle inp (waitCycle inp (s.withSampled inp)) = endCycle s.sampled (waitCycle s.sampled s) := by
      rw [endCycle_eq_positionWrite, endCycle_eq_positionWrite, hwrite, waitCycle, waitCycle, ← hquery]
      rfl
    rw [step_of_waits hreset hno, step_of_waits (s := s.withSampled inp) (hrst.trans hreset) hno']
    change guarded s (fun _ => endCycle inp (waitCycle inp (s.withSampled inp))) = _
    rw [same_end]
    rfl

/-- Of the inputs, a cycle that consumes a byte looks at the byte and the position write. -/
theorem step_withSampled_of_consumed {s t : State} {inp : Inputs} (hf : s.fires = true)
    (hf' : (s.withSampled inp).fires = true) (hbyte : inp.in_data = s.sampled.in_data)
    (hwrite : positionWrite inp = positionWrite s.sampled) (h : step s = .next t) :
    step (s.withSampled inp) = .next t := by
  rw [step_of_consumed hf, onNext_next_iff] at h
  obtain ⟨e, he, ht⟩ := h
  have same_token : (s.withSampled inp).fetched = s.fetched := congrArg (decodeByte s.cfg) hbyte
  rw [step_of_consumed hf', same_token, onNext_next_iff]
  refine ⟨_, exec_with_inputs _ he, ?_⟩
  rw [← ht, ← positionWrite_with_inputs, ← positionWrite_with_inputs, ← hwrite]
  rfl

/-- Settles O28: neither the byte nor its valid bit is among what a cycle that consumes no byte looks at. -/
theorem unconsumedByteHasNoEffect : Obligations.UnconsumedByteHasNoEffect := by
  intro s inp rest hin
  obtain ⟨rfl, rfl⟩ := State.sampled_of_inputs hin
  refine ⟨fun hready v d => ?_, fun hvalid d => ?_⟩
  · refine step_withSampled_of_unconsumed (inp := { s.sampled with in_valid := v, in_data := d }) ?_ ?_ rfl rfl rfl
    · simp [State.fires, hready]
    · change (v && s.inReady) = false
      simp [hready]
  · have hno : s.fires = false := State.not_fires (.inl hvalid)
    exact step_withSampled_of_unconsumed (inp := { s.sampled with in_data := d }) hno hno rfl rfl rfl

/-- Settles O29: a step takes one cycle's inputs and keeps the parameters, so the next cycle samples the kept offer and
decodes it alike. -/
theorem keptOfferIsConsumedWhenReady : Obligations.KeptOfferIsConsumedWhenReady := by
  intro s t hkeeps hvalid hready h hready'
  obtain ⟨hcfg, hinputs⟩ := stepKeepsTheParameters s t h
  obtain ⟨hvalid', hdata'⟩ := hkeeps hvalid hready
  rw [← hinputs] at hvalid' hdata'
  refine ⟨State.fires_iff.2 ⟨hvalid', hready'⟩, ?_⟩
  change decodeByte t.cfg t.sampled.in_data = decodeByte s.cfg s.sampled.in_data
  rw [hcfg, ← hdata']
  rfl

/-! ### The registry under the position write -/

/-- A position write in range is a write of the entry's position in place (R136). -/
theorem positionWrite_eq_modify {inp : Inputs} {s : State} (hw : inp.writes s.cfg) :
    positionWrite inp s =
      { s with chans := s.chans.modify inp.pos_wr_ch.toNat fun ch => { ch with pos := inp.pos_wr_data } } := by
  rw [positionWrite_of_writes hw, State.setChan, State.chan, List.modify_eq_set_getElem?]
  by_cases hlt : inp.pos_wr_ch.toNat < s.chans.length
  · simp [List.getD, hlt]
  · simp [List.getD, hlt, List.set_eq_of_length_le (Nat.le_of_not_lt hlt)]

/-- What does not look at the position of an entry is the same all over the registry after a position write (R137). -/
theorem positionWrite_map {α : Type} {f : Channel → α} (hf : ∀ ch p, f { ch with pos := p } = f ch) (inp : Inputs)
    (s : State) : (positionWrite inp s).chans.map f = s.chans.map f := by
  by_cases hw : inp.writes s.cfg
  · rw [positionWrite_eq_modify hw]
    refine List.ext_getElem? fun i => ?_
    by_cases hi : inp.pos_wr_ch.toNat = i
    · subst hi
      simp [Function.comp_def, hf]
    · simp [hi]
  · rw [positionWrite_of_not_writes hw]

/-! ### The query handshake -/

/-- With a query pending a step only waits for the reporter and writes positions (R177, R178). -/
theorem step_of_pending {s t : State} (hqv : s.qv = true) (hrst : s.sampled.rst = false) (h : step s = .next t) :
    t = endCycle s.sampled (waitCycle s.sampled s) :=
  ((step_unconsumed_iff hrst (State.not_fires (.inr hqv))).1 h).2

/-- The two states hold the same query snapshot (R29) and the same decoder registers (R113). -/
def SameQueryAndDecoder (s t : State) : Prop :=
  t.qch = s.qch ∧ t.qpos = s.qpos ∧ t.sel_v = s.sel_v ∧ t.sel = s.sel ∧ t.acc = s.acc ∧ t.rd = s.rd

theorem SameQueryAndDecoder.trans {s t u : State} (h : SameQueryAndDecoder s t) (h' : SameQueryAndDecoder t u) :
    SameQueryAndDecoder s u := by
  obtain ⟨hqch, hqpos, hsel_v, hsel, hacc, hrd⟩ := h
  obtain ⟨hqch', hqpos', hsel_v', hsel', hacc', hrd'⟩ := h'
  exact ⟨hqch'.trans hqch, hqpos'.trans hqpos, hsel_v'.trans hsel_v, hsel'.trans hsel, hacc'.trans hacc, hrd'.trans hrd⟩

/-- A pending query is cleared exactly by the reporter's acceptance, and its snapshot and the decoder registers stay
(R177). -/
theorem pending_after_step {s t : State} (hqv : s.qv = true) (hrst : s.sampled.rst = false) (h : step s = .next t) :
    t.qv = !s.sampled.qry_ready ∧ SameQueryAndDecoder s t := by
  rw [step_of_pending hqv hrst h]
  simp [SameQueryAndDecoder, hqv]

/-- Settles O27: with a query pending the step waits; with none the pending bit is 0 before and after the handshake. -/
theorem queryHandshakeClearsOnlyThePendingBit : Obligations.QueryHandshakeClearsOnlyThePendingBit := by
  intro s t inp rest hin hrst h
  obtain ⟨rfl, rfl⟩ := State.sampled_of_inputs hin
  refine ⟨fun hqv hready => ?_, fun hqv hready => ?_, fun hqv r => ?_⟩
  · obtain ⟨hqv', hqch, hqpos, -⟩ := pending_after_step hqv hrst h
    exact ⟨by simpa [hready] using hqv', hqch, hqpos⟩
  · obtain ⟨hqv', hqch, hqpos, -⟩ := pending_after_step hqv hrst h
    exact ⟨by simpa [hready] using hqv', hqch, hqpos⟩
  · change step (s.withSampled { s.sampled with qry_ready := r }) = .next t
    by_cases hf : s.fires = true
    · exact step_withSampled_of_consumed hf hf rfl rfl h
    · replace hf : s.fires = false := by simpa using hf
      have hquery : handshake { s.sampled with qry_ready := r } s = handshake s.sampled s := by simp [handshake, hqv]
      exact (step_withSampled_of_unconsumed (inp := { s.sampled with qry_ready := r }) hf hf rfl rfl hquery).trans h

/-- A token shown as a query leaves the query pending (R102). -/
theorem exec_query_act_pending {i : Instr} {s t : State} (h : exec i s = .next t) (hact : t.act = 2) : t.qv = true := by
  obtain ⟨-, rfl | ⟨c, -, -, rfl⟩ | ⟨c, -, -, rfl⟩ | ⟨v, -, -, -, -, -, rfl⟩ | ⟨v, -, -, -, -, -, rfl⟩⟩ := exec_next h
  case inr.inl => rfl
  all_goals simp [Action.code] at hact

/-- A step shown as a query leaves the query pending: neither a reset nor a cycle without a byte shows one. -/
theorem step_query_act_pending {s t : State} (h : step s = .next t) (hact : t.act = 2) : t.qv = true := by
  rcases step_cases h with ⟨-, rfl⟩ | ⟨-, -, -, e, he, rfl⟩ | ⟨-, -, -, rfl⟩
  · simp at hact
  · simp only [endCycle_act, endCycle_qv] at hact ⊢
    exact exec_query_act_pending he hact
  · simp at hact

/-- Settles O30: a pending query keeps the block from being ready, and it is pending after the step that consumed it and
no longer after the reporter's acceptance. -/
theorem pendingQueryHoldsUpTheInput : Obligations.PendingQueryHoldsUpTheInput := by
  refine ⟨fun s hqv => ?_, fun s t hqv hrst h => ?_, fun s t u h hact hu => ?_⟩
  · have pending : s.qv = true := hqv
    simp [State.outputs, State.inReady, pending]
  · obtain rfl := step_of_pending hqv hrst h
    exact ⟨by simp, waited_chans s.sampled s, positionWrite_map (fun _ _ => rfl) _ _,
      positionWrite_map (fun _ _ => rfl) _ _⟩
  · have pending : t.qv = true := step_query_act_pending h hact
    refine ⟨State.not_fires (.inr pending), fun hrst hready hrst' => State.inReady_iff.2 ⟨hrst', ?_⟩⟩
    obtain ⟨hqv, -⟩ := pending_after_step pending hrst hu
    simpa [hready] using hqv

/-! ### The wait for the reporter -/

/-- Through `k` cycles without reset in which the reporter does not accept, a pending query stays pending with its
snapshot, and the decoder rests (R177, R185). -/
theorem run_of_pending (k : Nat) {s : State} (hs : s.specified = true) (hqv : s.qv = true)
    (hwait : ∀ inp ∈ s.inputs.take k, inp.rst = false ∧ inp.qry_ready = false) :
    ∃ t : State, Sys2Proof.core.run k s = .next t ∧ t.specified = true ∧ t.qv = true ∧ SameQueryAndDecoder s t ∧
      t.inputs = s.inputs.drop k := by
  induction k generalizing s with
  | zero => exact ⟨s, rfl, hs, hqv, ⟨rfl, rfl, rfl, rfl, rfl, rfl⟩, rfl⟩
  | succ k ih =>
    obtain ⟨hrst, hready⟩ := sampled_of_forall_take ⟨rfl, rfl⟩ hwait
    obtain ⟨u, hu⟩ := step_completes hs
    obtain ⟨hqv', hsame⟩ := pending_after_step hqv hrst hu
    obtain ⟨-, htail⟩ := stepKeepsTheParameters s u hu
    have rest_inputs : u.inputs.take k = (s.inputs.take (k + 1)).tail := by
      rw [htail, List.tail_take_eq_take_tail, Nat.add_sub_cancel]
    have hwait' : ∀ inp ∈ u.inputs.take k, inp.rst = false ∧ inp.qry_ready = false := fun inp hinp =>
      hwait inp (List.mem_of_mem_tail (rest_inputs ▸ hinp))
    obtain ⟨t, ht, hst, hqvt, hsame', hdrop⟩ := ih (step_gives_specified hu) (by simpa [hready] using hqv') hwait'
    exact ⟨t, (run_succ_of_next hu).trans ht, hst, hqvt, hsame.trans hsame', by rw [hdrop, htail, List.drop_tail]⟩

/-- Settles O50: the query is still pending when the reporter accepts, and that cycle clears the pending bit. -/
theorem pendingQueryWaitsForTheReporter : Obligations.PendingQueryWaitsForTheReporter := by
  intro k s inp hs hqv hwait hin hrst hready
  obtain ⟨t, ht, hst, hqvt, hsame, hdrop⟩ := run_of_pending k hs hqv hwait
  obtain rfl : t.sampled = inp := State.sampled_of_drop hdrop hin
  obtain ⟨u, hu⟩ := step_completes hst
  obtain ⟨hqvu, hsame'⟩ := pending_after_step hqvt hrst hu
  have ⟨hqch, hqpos, _⟩ := hsame
  exact ⟨t, u, ht, (run_add_of_next ht).trans (run_succ_of_next hu), hqvt, hqch, hqpos, by simpa [hready] using hqvu,
    hsame.trans hsame'⟩

/-! ### The spec's cycle -/

theorem feed_cfg (s : State) (b : Byte) : (feed s b).1.cfg = s.cfg := by
  unfold feed
  cases classify s.cfg b with
  | dig v =>
    dsimp only
    split_ifs <;> rfl
  | _ => rfl

/-- The position write and the load of the action registers write different elements. -/
theorem positionWrite_loadAction (inp : Inputs) (s : State) (a : Action) :
    positionWrite inp (s.loadAction a) = (positionWrite inp s).loadAction a := by
  by_cases hw : inp.writes s.cfg
  · rw [positionWrite_of_writes hw, positionWrite_of_writes (s := s.loadAction a) hw]
    rfl
  · rw [positionWrite_of_not_writes hw, positionWrite_of_not_writes (s := s.loadAction a) hw]

/-- The position write as `cycle` writes it, under the parameters `cfg` of the state before the edge (R180). -/
theorem ite_modify_eq_positionWrite (inp : Inputs) {s : State} {cfg : Config} (hcfg : s.cfg = cfg) :
    (if inp.pos_wr_en && decide (inp.pos_wr_ch.toNat < cfg.nCh) && decide (inp.pos_wr_data.toNat ≤ 999) then
      { s with chans := s.chans.modify inp.pos_wr_ch.toNat fun ch => { ch with pos := inp.pos_wr_data } }
    else s) = positionWrite inp s := by
  subst hcfg
  have hcond : (inp.pos_wr_en && decide (inp.pos_wr_ch.toNat < s.cfg.nCh) &&
      decide (inp.pos_wr_data.toNat ≤ 999)) = true ↔ inp.writes s.cfg := by
    simp [Inputs.writes, and_assoc]
  by_cases hw : inp.writes s.cfg
  · rw [if_pos (hcond.2 hw), positionWrite_eq_modify hw]
  · rw [if_neg (mt hcond.1 hw), positionWrite_of_not_writes hw]

/-- `cycle` in a cycle that consumes a byte: `feed` of the byte, its action and the position write. -/
theorem cycle_of_consumed {s : State} {inp : Inputs} (hrst : inp.rst = false) (hvalid : inp.in_valid = true)
    (hqv : s.qv = false) :
    cycle s inp = positionWrite inp ((feed s inp.in_data).1.loadAction (feed s inp.in_data).2) := by
  rw [positionWrite_loadAction, ← ite_modify_eq_positionWrite inp (feed_cfg s inp.in_data)]
  simp [cycle, hrst, hvalid, hqv, State.loadAction]

/-- The query handshake as `cycle` writes it (R180). -/
theorem handshake_eq_ite (inp : Inputs) (s : State) :
    handshake inp s = if s.qv && inp.qry_ready then { s with qv := false } else s := by
  by_cases h : (s.qv && inp.qry_ready) = true
  · have cleared : (s.qv && !inp.qry_ready) = false := by simp_all
    rw [if_pos h, handshake, cleared]
  · have kept : (s.qv && !inp.qry_ready) = s.qv := by simp_all
    rw [if_neg h, handshake, kept]

/-- `cycle` in a cycle that consumes no byte: the query handshake, NONE and the position write. -/
theorem cycle_of_unconsumed {s : State} {inp : Inputs} (hrst : inp.rst = false) (hno : (inp.in_valid && !s.qv) = false) :
    cycle s inp = positionWrite inp (waitCycle inp s) := by
  rw [waitCycle, positionWrite_loadAction, ← ite_modify_eq_positionWrite inp (handshake_cfg inp s), handshake_eq_ite]
  simp [cycle, hrst, hno, State.loadAction]

/-- Settles O32: reset is the same in both; what a cycle does before the position write is `feed` of the consumed byte
or, with none consumed, the query handshake. -/
theorem stepIsTheCycleOfTheSpec : Obligations.StepIsTheCycleOfTheSpec := by
  intro s hs
  by_cases hrst : s.sampled.rst = true
  · rw [step_of_rst hrst]
    simp [cycle, hrst]
  · have hspec : s.specified = true := hs.resolve_right hrst
    replace hrst : s.sampled.rst = false := by simpa using hrst
    by_cases hf : s.fires = true
    · obtain ⟨hvalid, hready⟩ := State.fires_iff.1 hf
      obtain ⟨-, hqv⟩ := State.inReady_iff.1 hready
      obtain ⟨e, he⟩ := exec_completes s.fetched s hspec
      have is_feed := exec_with_inputs s.inputs.tail he
      rw [State.fetched, tokenMeaningIsFeed { s with inputs := s.inputs.tail } _ hspec] at is_feed
      rw [step_of_consumed hf, he, cycle_of_consumed (s := { s with inputs := s.inputs.tail }) hrst hvalid hqv,
        Host.Outcome.next.inj is_feed, positionWrite_with_inputs]
      rfl
    · replace hf : s.fires = false := by simpa using hf
      have hno : (s.sampled.in_valid && !s.qv) = false := by simpa [State.fires, State.inReady, hrst] using hf
      rw [cycle_of_unconsumed (s := { s with inputs := s.inputs.tail }) hrst hno, step_unconsumed_iff hrst hf,
        endCycle_eq_positionWrite]
      exact ⟨hspec, rfl⟩

end Sys2Proof.Machine

/-! The idle cycle (R209). -/

namespace Sys2Proof.Machine

/-- With no query pending or no acceptance no handshake completes, and the query buffer stays (R177). -/
theorem handshake_of_none {inp : Inputs} {s : State} (h : s.qv = false ∨ inp.qry_ready = false) :
    handshake inp s = s := by
  have kept : (s.qv && !inp.qry_ready) = s.qv := by rcases h with h | h <;> simp [h]
  rw [handshake, kept]

/-- A cycle that consumes no byte, completes no handshake and writes no position only loads NONE. -/
theorem step_of_idle {s : State} (hs : s.specified = true) (hrst : s.sampled.rst = false) (hno : s.fires = false)
    (hquery : s.qv = false ∨ s.sampled.qry_ready = false) (hwrite : s.sampled.pos_wr_en = false) :
    step s = .next { s.noAction with inputs := s.inputs.tail } := by
  refine (step_unconsumed_iff hrst hno).2 ⟨hs, ?_⟩
  rw [endCycle_of_no_write _ hwrite, waitCycle, handshake_of_none hquery]
  rfl

/-- Past the end of the inputs the cycle samples idle inputs (notes/assumptions/4.md). -/
theorem State.sampled_of_no_inputs {s : State} (h : s.inputs = []) : s.sampled = Inputs.idle := by
  simp [State.sampled, h]

/-- Settles O26: a cycle driven idle and a cycle past the end of the inputs are both idle; past the end the list of inputs
stays empty. -/
theorem idleCycleLoadsOnlyNone : Obligations.IdleCycleLoadsOnlyNone := by
  refine fun s hs => ⟨fun inp rest hin hrst hno hquery hwrite => ?_, fun hin => ?_⟩
  · obtain ⟨rfl, rfl⟩ := State.sampled_of_inputs hin
    exact step_of_idle hs hrst (State.not_fires hno) hquery hwrite
  · have idle : s.sampled = Inputs.idle := State.sampled_of_no_inputs hin
    have inputs_stay : s.inputs.tail = s.inputs := by rw [hin, List.tail_nil]
    rw [step_of_idle hs (congrArg Inputs.rst idle) (State.not_fires (.inl (congrArg Inputs.in_valid idle)))
      (.inr (congrArg Inputs.qry_ready idle)) (congrArg Inputs.pos_wr_en idle), inputs_stay]
    rfl

end Sys2Proof.Machine

/-! The reset cycle (R230). -/

namespace Sys2Proof.Machine

/-- Every registry entry of the reset state is the reset entry (R32). -/
theorem State.eq_reset_of_mem_resetOf {cfg : Config} {inputs : List Inputs} {ch : Channel}
    (h : ch ∈ (State.resetOf cfg inputs).chans) : ch = Channel.reset :=
  List.eq_of_mem_replicate h

/-- Settles O2: the step from any state with reset driven is the reset state, so a second one is too; the reset state has
no query pending, so without reset the block is ready. -/
theorem resetCycleLoadsTheResetState : Obligations.ResetCycleLoadsTheResetState := by
  intro s hrst
  have not_ready : s.inReady = false := by simp [State.inReady, hrst]
  refine ⟨not_ready, step_of_rst hrst, fun t h => ?_⟩
  obtain rfl : State.resetOf s.cfg s.inputs.tail = t := Host.Outcome.next.inj ((step_of_rst hrst).symm.trans h)
  refine ⟨State.phase_eq_nosel_iff.2 rfl, rfl, rfl, fun ch hch => ?_, step_of_rst,
    fun hrst' => State.inReady_iff.2 ⟨hrst', rfl⟩⟩
  obtain rfl := State.eq_reset_of_mem_resetOf hch
  exact ⟨rfl, rfl, rfl, rfl, rfl⟩

end Sys2Proof.Machine

/-! The refusal of a state the block is not specified from (D28, U10). -/

namespace Sys2Proof.Machine

theorem guarded_refuses {s : State} (hs : s.specified = false) (f : State → State) :
    guarded s f = .refused .unspecifiedState := by
  rw [guarded, if_neg (by simp [hs])]

theorem retire_refuses {s : State} (hs : s.specified = false) (f : State → State) (a : Action) :
    retire s f a = .refused .unspecifiedState :=
  guarded_refuses hs _

theorem ignored_refuses {s : State} (hs : s.specified = false) : ignored s = .refused .unspecifiedState :=
  retire_refuses hs _ _

/-- Whichever case of a digit the state selects, it retires, and the retirement is what refuses. -/
theorem digit_refuses {s : State} (hs : s.specified = false) (v : Nat) :
    digit v s = .refused .unspecifiedState := by
  unfold digit
  split_ifs
  · exact ignored_refuses hs
  · exact ignored_refuses hs
  · exact retire_refuses hs _ _
  · exact retire_refuses hs _ _
  · exact retire_refuses hs _ _

theorem meaningOf_refuses {s : State} (hs : s.specified = false) (tok : Token) :
    meaningOf tok s = .refused .unspecifiedState := by
  cases tok with
  | qry c => rw [meaningOf, query, retire_refuses hs]
  | sel c => rw [meaningOf, select, retire_refuses hs]
  | dig v => exact digit_refuses hs v
  | ign => exact ignored_refuses hs

/-- A token whose row is absent is refused too: it acts as IGN, which retires (R81). -/
theorem exec_refuses {s : State} (hs : s.specified = false) (i : Instr) :
    exec i s = .refused .unspecifiedState := by
  by_cases hw : i.wellFormed s.cfg = true
  · rw [exec_of_wellFormed hw, meaningOf_refuses hs]
  · rw [exec_of_not_wellFormed (by simpa using hw), ignored_refuses hs]

/-- Settles O12: a cycle without reset either consumes a byte, and its token refuses, or waits, and the wait refuses. -/
theorem unspecifiedStateIsRefused : Obligations.UnspecifiedStateIsRefused := by
  refine fun s hs => ⟨exec_refuses hs, fun hrst => ?_⟩
  by_cases hf : s.fires = true
  · rw [step_of_fires hf, consumingCycle, exec_refuses hs, onNext]
  · rw [step_of_waits hrst (by simpa using hf), waitingCycle, guarded_refuses hs]

end Sys2Proof.Machine
